-- ==== Sys2Proof/Word.lean ====
section
/-!
DEFINITION. The word types of the MDPU core (`00_scope.md` R8) and the closed sets of names the rest of the
model speaks of: the opcode tags (`30_encoding.md` R84), the operand slots (R81) and their roles (R85).
-/

namespace Sys2Proof

/-- `s32`: a signed 32-bit two's-complement integer, held as its pattern `bits32(v)` and read with `BitVec.toInt`
(R8). Every register and every memory word is one. -/
abbrev S32 := BitVec 32

/-- `u32`: an unsigned 32-bit integer (R8): register indices, addresses, `pc`, `sp`. -/
abbrev U32 := BitVec 32

/-- `u64`: an unsigned 64-bit integer (R8): `executed_count`, `BUDGET`. -/
abbrev U64 := BitVec 64

/-- An instruction word of format W6: 192 bits (`30_encoding.md` R82). -/
abbrev InstrWord := BitVec 192

/-- The 33 opcode tags, in the order of the table of R84. -/
inductive Opcode where
  | nop | add | sub | mul | div | store | load | li | push | pop
  | jmp | jz | jnz | mov | je | jne | and | or | xor | not
  | shl | shr | cmp | test | b | bz | bnz | neg | abs | mod
  | inc | dec | halt
  deriving DecidableEq, Repr

/-- The five operand slots of a decoded instruction (R81). -/
inductive Slot where
  | reg1 | reg2 | reg3 | addr | imm
  deriving DecidableEq, Repr

/-- The role of a slot in an opcode (R85): `src` is read through `RegRead`, `dst` written through `RegWrite`, `srcDst`
read then written, `mem` a memory word address, `tgt` a program index, `lit` a literal, `ignored` not looked at. -/
inductive Role where
  | src | dst | srcDst | mem | tgt | lit | ignored
  deriving DecidableEq, Repr

end Sys2Proof
end

