-- ==== Sys2Proof/Config.lean ====
section
/-!
DEFINITION. What is fixed for a whole run (`00_scope.md` R6): the capacities, the program, the budget and the
behaviour of the shifter for a count outside 0 to 31. `NUM_REGISTERS` is not a field: it is the length of the register bank
(assumption 1).
-/

namespace Sys2Proof

/-- The two shift operations, the first argument of `SHIFT_OOR` (`92_eei_decisions.md` P5). -/
inductive ShiftOp where
  | shl | shr
  deriving DecidableEq, Repr

/-- The parameter `SHIFT_OOR` (`41_bitwise.md` R121): what SHL and SHR answer for a count outside 0 to 31. -/
inductive ShiftOor where
  /-- The default the spec fixes: the low five bits of the count's pattern are the count used. DESIGN CHOICE
  (assumption 3), unsafe for a shifter that answers otherwise. -/
  | mod32
  /-- Any shifter: the answer is `Config.freeShift`, of which nothing is known. Safe (assumption 3). -/
  | free
  deriving DecidableEq, Repr

/-- The configuration of a machine (R6), which no step changes. -/
structure Config where
  /-- `MEMORY_SIZE`, the number of 32-bit words of `mem`. -/
  memorySize : Nat
  /-- `PROGRAM`, the program store: instruction words indexed by `pc` (`20_memory.md` R54). -/
  program : List InstrWord
  /-- `BUDGET`, the number of instructions a run may complete. -/
  budget : U64
  /-- `SHIFT_OOR`. -/
  shiftOor : ShiftOor
  deriving DecidableEq, Repr

/-- The free value of the model: the answer of a shifter of which nothing is known, for a count outside 0 to 31
(`93_implementation_defined.md` U1: an uninterpreted total function of operation, value and count). It has no body, so no proof can lean on
a value of it. -/
opaque Config.freeShift : ShiftOp → S32 → S32 → S32

/-- `PROGRAM_LENGTH`. -/
def Config.programLength (c : Config) : Nat := c.program.length

end Sys2Proof
end

