-- ==== Sys2Proof/Machine/Alu.lean ====
section
/-!
DEFINITION. The scalar ALU: what each arithmetic, bitwise and shift opcode computes from its operand values. Arithmetic is
exact on mathematical integers and narrowed once by `wrap32` (`40_arithmetic.md` R101, R102; `41_bitwise.md` R120, R121).
-/

namespace Sys2Proof.Machine

/-- `wrap32(z)`: the `s32` congruent to `z` modulo 2^32 (`00_scope.md` R8). The overflow law R101 is the spec's decision D7 (assumption 11). -/
def wrap32 (z : Int) : S32 := BitVec.ofInt 32 z

/-- ADD (R103). -/
def aluAdd (a b : S32) : S32 := wrap32 (a.toInt + b.toInt)

/-- SUB (R104) and CMP (R128). -/
def aluSub (a b : S32) : S32 := wrap32 (a.toInt - b.toInt)

/-- MUL (R105). -/
def aluMul (a b : S32) : S32 := wrap32 (a.toInt * b.toInt)

/-- DIV for a divisor other than 0 (R106): the quotient rounded toward zero (R102, decisions D8, D9: assumption 12), wrapped. -/
def aluDiv (a b : S32) : S32 := wrap32 (Int.tdiv a.toInt b.toInt)

/-- MOD for a divisor other than 0 (R107): the remainder of the truncated division, with the sign of the dividend (R102). -/
def aluMod (a b : S32) : S32 := wrap32 (Int.tmod a.toInt b.toInt)

/-- NEG (R108). -/
def aluNeg (a : S32) : S32 := wrap32 (-a.toInt)

/-- ABS (R109). -/
def aluAbs (a : S32) : S32 := if a.toInt < 0 then wrap32 (-a.toInt) else a

/-- INC (R110). -/
def aluInc (a : S32) : S32 := wrap32 (a.toInt + 1)

/-- DEC (R111). -/
def aluDec (a : S32) : S32 := wrap32 (a.toInt - 1)

/-- AND (R122) and TEST (R129), on the patterns. -/
def aluAnd (a b : S32) : S32 := a &&& b

/-- OR (R123). -/
def aluOr (a b : S32) : S32 := a ||| b

/-- XOR (R124). -/
def aluXor (a b : S32) : S32 := a ^^^ b

/-- NOT (R127). -/
def aluNot (a : S32) : S32 := ~~~a

/-- `a << c` for a count in range (R121): `wrap32(a * 2^c)`. -/
def shiftLeft (a : S32) (c : Nat) : S32 := wrap32 (a.toInt * ((2 ^ c : Nat) : Int))

/-- `a >>a c` for a count in range (R121): `floor(a / 2^c)`, an arithmetic shift (decision D10: assumption 13). -/
def shiftRight (a : S32) (c : Nat) : S32 := wrap32 (Int.fdiv a.toInt ((2 ^ c : Nat) : Int))

/-- A shift by a count in range. -/
def shiftBy : ShiftOp → S32 → Nat → S32
  | .shl, a, c => shiftLeft a c
  | .shr, a, c => shiftRight a c

/-- `SHIFT_OOR(op, a, c)` (R121): the default `mod32` uses the low five bits of the count's pattern; `free` is a shifter of which nothing is known. -/
def shiftOutOfRange (sel : ShiftOor) (op : ShiftOp) (a c : S32) : S32 :=
  match sel with
  | .mod32 => shiftBy op a (c.extractLsb' 0 5).toNat
  | .free => Config.freeShift op a c

/-- SHL (R125) and SHR (R126): the in-range law for a count 0 to 31, else `SHIFT_OOR`. -/
def aluShift (sel : ShiftOor) (op : ShiftOp) (a c : S32) : S32 :=
  if 0 ≤ c.toInt ∧ c.toInt ≤ 31 then shiftBy op a c.toNat else shiftOutOfRange sel op a c

end Sys2Proof.Machine
end

