-- ==== Sys2Proof/Machine/State.lean ====
section
/-!
DEFINITION. The state of the MDPU core, as plain data (`10_state.md`): the tuple
`(x, mem, sp, pc, executed_count, run_state, fault)` and, because the step takes no other argument, the configuration beside it (assumption 1). Also the
two ways a step can end other than in a next state, and the machine after construction (R38, `70_reset_and_hazards.md` R240).
-/

namespace Sys2Proof.Machine

/-- The data memory `mem`: pairs of a word address and the 32-bit word there (`20_memory.md` R50, R52), in the canonical form of
`Memory.wf`: addresses strictly rising, no listed word 0, since an unlisted address reads 0 (R56, assumption 7). -/
abbrev Memory := List (Nat × S32)

/-- `run_state` (R31). -/
inductive RunState where
  | running | halted | faulted
  deriving DecidableEq, Repr

/-- The two operand spaces a bounds check can fail in (`60_exceptions.md` R212). -/
inductive Space where
  | reg | mem
  deriving DecidableEq, Repr

/-- The five causes of a fault (`60_exceptions.md` R210). -/
inductive FaultCause where
  | outOfBounds | divisionByZero | stackOverflow | stackUnderflow | budgetExceeded
  deriving DecidableEq, Repr

/-- The `detail` of a fault, one form per cause (`60_exceptions.md` R212). -/
inductive FaultDetail where
  /-- The space, the slot and the offending index. -/
  | outOfBounds (space : Space) (slot : Slot) (index : U32)
  /-- The index of the divisor register. -/
  | divisionByZero (divisorRegister : U32)
  /-- The value of `sp`. -/
  | stackOverflow (sp : U32)
  /-- The value of `sp`. -/
  | stackUnderflow (sp : U32)
  /-- The value of `executed_count`. -/
  | budgetExceeded (executedCount : U64)
  deriving DecidableEq, Repr

/-- The fault record `(cause, pc, opcode, detail)` (R32, `60_exceptions.md` R212). The `cause` is the form of `detail` and is read
from it by `FaultRecord.cause` (assumption 8). -/
structure FaultRecord where
  /-- `pc` at the start of the step. -/
  pc : U32
  /-- The opcode of the faulting instruction, `none` for BudgetExceeded. -/
  opcode : Option Opcode
  /-- What failed. -/
  detail : FaultDetail
  deriving DecidableEq, Repr

/-- Why `step` stops without a next state. None of these is one of the five faults of the core, which are next states in Faulted
(assumption 5). -/
inductive Fault where
  /-- Raised by `step` in Halted: no step is defined there (R31, `45_execution_engine.md` R190). Safe. -/
  | stepAfterHalted
  /-- Raised by `step` in Faulted: no step is defined there (R31, `60_exceptions.md` R218). Safe. -/
  | stepAfterFaulted
  /-- Raised by PUSH and POP where `sp` (POP: `sp + 1`) is no address of `mem`, in states that R28 says no run reaches. Safe (assumption 10). -/
  | stackPointerOutsideMemory
  deriving DecidableEq, Repr

/-- Why `step` refuses. -/
inductive Refusal where
  /-- Raised by `exec` for an instruction that has no meaning yet (none is left). Safe. -/
  | notModelled (mnemonic : String)
  /-- Raised by `step`: `NUM_REGISTERS` outside 1 to 2^32 (`00_scope.md` R7). Safe (assumption 6). -/
  | illegalRegisterCount
  /-- Raised by `step`: `MEMORY_SIZE` outside 1 to 2^32 (R7). Safe (assumption 6). -/
  | illegalMemorySize
  /-- Raised by `step`: `BUDGET` is 0 (R7). Safe (assumption 6). -/
  | illegalBudget
  /-- Raised by `step`: `PROGRAM` longer than 2^32 - 1 (R6). Safe (assumption 6). -/
  | illegalProgramLength
  /-- Raised by `step`: `PROGRAM` holds a word that is no instruction (`30_encoding.md` R88). Safe (assumption 6). -/
  | illegalProgramWord
  deriving DecidableEq, Repr

/-- The whole state of the machine. -/
structure State where
  /-- The configuration, which no step changes (`00_scope.md` R6). -/
  cfg : Config
  /-- The register bank `x` in index order; its length is `NUM_REGISTERS` (R20). -/
  regs : List S32
  /-- The data memory `mem` (`20_memory.md` R50). -/
  mem : Memory
  /-- The stack pointer: the next free stack slot (R25). -/
  sp : U32
  /-- The instruction pointer: an index into the program (R26). -/
  pc : U32
  /-- The executed-instruction counter (R29). -/
  executedCount : U64
  /-- The run state (R31). -/
  runState : RunState
  /-- The fault record, `none` until a fault is taken (R32). -/
  fault : Option FaultRecord
  deriving DecidableEq, Repr

/-- `NUM_REGISTERS` (R6): the length of the bank. -/
def State.numRegisters (s : State) : Nat := s.regs.length

/-- Construction, the reset of this hardware (R38, `70_reset_and_hazards.md` R240): both stores zero filled, `sp` at
`MEMORY_SIZE - 1`, the engine at program index 0 with nothing executed, Running, no fault. -/
def State.construct (numRegisters : Nat) (cfg : Config) : State where
  cfg := cfg
  regs := List.replicate numRegisters 0
  mem := []
  sp := BitVec.ofNat 32 (cfg.memorySize - 1)
  pc := 0
  executedCount := 0
  runState := .running
  fault := none

/-- The configuration of `State.reset`. The spec leaves all of it OPEN but `SHIFT_OOR`, whose default it fixes: the capacities and
the budget are DESIGN CHOICEs (assumption 2), unsafe for a claim that leans on them; the program is empty (assumption 4). -/
def resetConfig : Config where
  memorySize := 1024
  program := []
  budget := 18446744073709551615
  shiftOor := .mod32

/-- `NUM_REGISTERS` of `State.reset`: DESIGN CHOICE (assumption 2). -/
def resetNumRegisters : Nat := 16

/-- The machine right after reset. -/
def State.reset : State := State.construct resetNumRegisters resetConfig

end Sys2Proof.Machine
end

