-- ==== Sys2Proof/Machine/Ops.lean ====
section
/-!
DEFINITION. The named operations over the state: reading and writing the sparse memory, the updates of single
fields, taking a fault, and the four outcomes of an instruction with the way each completes the step (`45_execution_engine.md` R192, R193).
There is no return from a fault to define: Faulted is terminal (`60_exceptions.md` R218).
-/

namespace Sys2Proof.Machine

/-! ### Memory as a sparse list of words -/

/-- What a cell that nothing has written reads as (`20_memory.md` R56). -/
def Memory.unlisted : S32 := 0

/-- `mem[a]`. -/
def Memory.read (a : Nat) : Memory → S32
  | [] => Memory.unlisted
  | (b, w) :: rest => if a = b then w else Memory.read a rest

/-- `mem[a] <- v`. Writing what an unlisted address reads as takes the entry out, so equal memories are equal lists. -/
def Memory.write (a : Nat) (v : S32) : Memory → Memory
  | [] => if v = Memory.unlisted then [] else [(a, v)]
  | (b, w) :: rest =>
    if a < b then (if v = Memory.unlisted then (b, w) :: rest else (a, v) :: (b, w) :: rest)
    else if a = b then (if v = Memory.unlisted then rest else (a, v) :: rest)
    else (b, w) :: Memory.write a v rest

/-- The canonical form from address `lo` on: addresses at least `lo` and strictly rising, no entry equal to what an unlisted address reads as. -/
def Memory.wfFrom (lo : Nat) : Memory → Bool
  | [] => true
  | (a, v) :: rest => decide (lo ≤ a) && decide (v ≠ Memory.unlisted) && Memory.wfFrom (a + 1) rest

/-- The canonical form of a memory. -/
def Memory.wf (m : Memory) : Bool := Memory.wfFrom 0 m

/-- No address at or above `n` is listed: every listed cell exists in a memory of `n` words (`20_memory.md` R55). -/
def Memory.below (n : Nat) (m : Memory) : Bool := m.all fun c => decide (c.1 < n)

/-! ### Updates of the state -/

/-- `x[i] <- v`, for an index that exists (`00_scope.md` R9). -/
def State.setReg (s : State) (i : U32) (v : S32) : State := { s with regs := s.regs.set i.toNat v }

/-- `mem[a] <- v`, for an address that exists (`00_scope.md` R9). -/
def State.setMem (s : State) (a : U32) (v : S32) : State := { s with mem := Memory.write a.toNat v s.mem }

/-- `sp <- v`. -/
def State.setSp (s : State) (v : U32) : State := { s with sp := v }

/-- The completion of a fall-through (`45_execution_engine.md` R193, Next): one more instruction executed, the next index. -/
def State.advance (s : State) : State := { s with executedCount := s.executedCount + 1, pc := s.pc + 1 }

/-- The completion of a taken jump (R193, Redirect): one more instruction executed, `pc` at the target. -/
def State.redirect (s : State) (addr : U32) : State := { s with executedCount := s.executedCount + 1, pc := addr }

/-- The end of a run without a fault (R193, Halt; R191 item 2): nothing else changes. -/
def State.halt (s : State) : State := { s with runState := .halted }

/-- TAKING A FAULT (`60_exceptions.md` R216, R217): `run_state` becomes Faulted and the record is written; `x`, `mem`, `sp`, `pc` and
`executed_count` keep the values they had before the step. There is no vector, no saved pc and no mode. -/
def State.takeFault (s : State) (opcode : Option Opcode) (detail : FaultDetail) : State :=
  { s with runState := .faulted, fault := some { pc := s.pc, opcode := opcode, detail := detail } }

/-! ### Causes and codes of a fault -/

/-- The cause of a fault, from its detail (`60_exceptions.md` R212). -/
def FaultDetail.cause : FaultDetail → FaultCause
  | .outOfBounds .. => .outOfBounds
  | .divisionByZero _ => .divisionByZero
  | .stackOverflow _ => .stackOverflow
  | .stackUnderflow _ => .stackUnderflow
  | .budgetExceeded _ => .budgetExceeded

/-- The `cause` field of the record (R212). -/
def FaultRecord.cause (r : FaultRecord) : FaultCause := r.detail.cause

/-- The code numbers of the table of `60_exceptions.md` R210. -/
def FaultCause.code : FaultCause → Nat
  | .outOfBounds => 1
  | .divisionByZero => 2
  | .stackOverflow => 3
  | .stackUnderflow => 4
  | .budgetExceeded => 5

/-- The code of the `fault` field, 0 for `none` (R210). -/
def faultCode : Option FaultRecord → Nat
  | none => 0
  | some r => r.cause.code

/-! ### The outcomes of an instruction -/

/-- What evaluating an instruction's rule ends in (`45_execution_engine.md` R192): `Fault`, `Halt`, `Redirect`, `Next`. In `commit t`
the state `t` holds the instruction's writes to `x`, `mem` and `sp`. `stuck` is the model's: a state that R28 excludes. -/
inductive Evaluation where
  | raise (detail : FaultDetail)
  | halt
  | redirect (addr : U32)
  | commit (t : State)
  | stuck (reason : Fault)
  deriving DecidableEq, Repr

/-- Completing the step of opcode `op` begun in `s`, by outcome (R193). A raised fault discards whatever the rule had computed, so a
faulting instruction has no effect (`60_exceptions.md` R216). -/
def complete (op : Opcode) (s : State) : Evaluation → Host.Outcome State Fault Refusal
  | .raise d => .next (s.takeFault (some op) d)
  | .halt => .next s.halt
  | .redirect addr => .next (s.redirect addr)
  | .commit t => .next t.advance
  | .stuck r => .fault r

end Sys2Proof.Machine
end

