-- ==== Sys2Proof/Machine/Operands.lean ====
section
/-!
DEFINITION. The operand forms: the bounds-checked register accessors (`10_state.md` R22, R23), the bounds-checked
memory accessors (`20_memory.md` R57, R58) and the stack primitives (R59, R60). Each takes what the instruction does next as its last argument, so a
meaning reads top to bottom like the pseudocode of its rule, and the first failing check is the fault reported (`60_exceptions.md` R214).
-/

namespace Sys2Proof.Machine

/-- `RegRead(i)` of the operand in `slot` (`10_state.md` R22). -/
def regRead (slot : Slot) (i : U32) (s : State) (k : S32 → Evaluation) : Evaluation :=
  match s.regs[i.toNat]? with
  | some v => k v
  | none => .raise (.outOfBounds .reg slot i)

/-- `RegWrite(i, v)` of the operand in `slot` (`10_state.md` R23), the last line of an instruction: the check comes before the write. -/
def regWrite (slot : Slot) (i : U32) (v : S32) (s : State) : Evaluation :=
  if i.toNat < s.numRegisters then .commit (s.setReg i v) else .raise (.outOfBounds .reg slot i)

/-- `MemRead(a, 1)` of the `addr` operand (`20_memory.md` R57). -/
def memRead (a : U32) (s : State) (k : S32 → Evaluation) : Evaluation :=
  if a.toNat < s.cfg.memorySize then k (Memory.read a.toNat s.mem) else .raise (.outOfBounds .mem .addr a)

/-- `MemWrite(a, 1, v)` of the `addr` operand (`20_memory.md` R58). -/
def memWrite (a : U32) (v : S32) (s : State) : Evaluation :=
  if a.toNat < s.cfg.memorySize then .commit (s.setMem a v) else .raise (.outOfBounds .mem .addr a)

/-- `Push(v)` (`20_memory.md` R59): refused at `sp = 0`, else `mem[sp] <- v` and `sp <- sp - 1`. The test on `memorySize` fails in no
state a run reaches (`10_state.md` R28, assumption 10). -/
def pushWord (v : S32) (s : State) : Evaluation :=
  if s.sp = 0 then .raise (.stackOverflow s.sp)
  else if s.sp.toNat < s.cfg.memorySize then .commit ((s.setMem s.sp v).setSp (s.sp - 1))
  else .stuck .stackPointerOutsideMemory

/-- `Pop()` (`20_memory.md` R60): refused at `sp = MEMORY_SIZE - 1`, else `sp <- sp + 1` and the word `mem[sp]` is handed on, with the state in
which `sp` has moved. The last case is met in no state a run reaches (assumption 10). -/
def popWord (s : State) (k : S32 → State → Evaluation) : Evaluation :=
  if s.sp.toNat + 1 = s.cfg.memorySize then .raise (.stackUnderflow s.sp)
  else if s.sp.toNat + 1 < s.cfg.memorySize then k (Memory.read (s.sp.toNat + 1) s.mem) (s.setSp (s.sp + 1))
  else .stuck .stackPointerOutsideMemory

/-- A jump to `addr` if `taken`, else a fall-through with nothing written (`43_control_flow.md` R160). -/
def branch (taken : Bool) (addr : U32) (s : State) : Evaluation :=
  if taken then .redirect addr else .commit s

/-- The shape `reg1, reg2 -> reg3` (`30_encoding.md` R85): both sources are read, then the destination is checked and written. -/
def binary (f : S32 → S32 → S32) (r1 r2 r3 : U32) (s : State) : Evaluation :=
  regRead .reg1 r1 s fun a => regRead .reg2 r2 s fun b => regWrite .reg3 r3 (f a b) s

/-- The shape `reg1, reg2 -> reg3` of DIV and MOD (`40_arithmetic.md` R106, R107): a zero divisor faults after both sources are read and before the
destination is checked. -/
def division (f : S32 → S32 → S32) (r1 r2 r3 : U32) (s : State) : Evaluation :=
  regRead .reg1 r1 s fun a => regRead .reg2 r2 s fun b =>
    if b = 0 then .raise (.divisionByZero r2) else regWrite .reg3 r3 (f a b) s

/-- The shape `reg1 -> reg2` of NEG, ABS and NOT. -/
def unary (f : S32 → S32) (r1 r2 : U32) (s : State) : Evaluation :=
  regRead .reg1 r1 s fun a => regWrite .reg2 r2 (f a) s

/-- The shape `reg1 -> reg1` of INC and DEC. -/
def inPlace (f : S32 → S32) (r1 : U32) (s : State) : Evaluation :=
  regRead .reg1 r1 s fun a => regWrite .reg1 r1 (f a) s

/-- The shape of JZ, BZ, JNZ, BNZ: one register tested. -/
def branchIf (test : S32 → Bool) (r1 addr : U32) (s : State) : Evaluation :=
  regRead .reg1 r1 s fun a => branch (test a) addr s

/-- The shape of JE and JNE: two registers compared. -/
def branchIf2 (test : S32 → S32 → Bool) (r1 r2 addr : U32) (s : State) : Evaluation :=
  regRead .reg1 r1 s fun a => regRead .reg2 r2 s fun b => branch (test a b) addr s

end Sys2Proof.Machine
end

