-- ==== Sys2Proof/Machine/Arithmetic.lean ====
section
/-!
DEFINITION. The meanings of the arithmetic family: ADD SUB MUL DIV MOD NEG ABS INC DEC (`40_arithmetic.md`).
-/

namespace Sys2Proof.Machine

/-- ADD (R103). -/
def execAdd (r1 r2 r3 : U32) (s : State) : Host.Outcome State Fault Refusal :=
  complete .add s (binary aluAdd r1 r2 r3 s)

/-- SUB (R104). -/
def execSub (r1 r2 r3 : U32) (s : State) : Host.Outcome State Fault Refusal :=
  complete .sub s (binary aluSub r1 r2 r3 s)

/-- MUL (R105). -/
def execMul (r1 r2 r3 : U32) (s : State) : Host.Outcome State Fault Refusal :=
  complete .mul s (binary aluMul r1 r2 r3 s)

/-- DIV (R106). -/
def execDiv (r1 r2 r3 : U32) (s : State) : Host.Outcome State Fault Refusal :=
  complete .div s (division aluDiv r1 r2 r3 s)

/-- MOD (R107). -/
def execMod (r1 r2 r3 : U32) (s : State) : Host.Outcome State Fault Refusal :=
  complete .mod s (division aluMod r1 r2 r3 s)

/-- NEG (R108). -/
def execNeg (r1 r2 : U32) (s : State) : Host.Outcome State Fault Refusal :=
  complete .neg s (unary aluNeg r1 r2 s)

/-- ABS (R109). -/
def execAbs (r1 r2 : U32) (s : State) : Host.Outcome State Fault Refusal :=
  complete .abs s (unary aluAbs r1 r2 s)

/-- INC (R110). -/
def execInc (r1 : U32) (s : State) : Host.Outcome State Fault Refusal :=
  complete .inc s (inPlace aluInc r1 s)

/-- DEC (R111). -/
def execDec (r1 : U32) (s : State) : Host.Outcome State Fault Refusal :=
  complete .dec s (inPlace aluDec r1 s)

end Sys2Proof.Machine
end

