-- ==== Sys2Proof/Machine/Bitwise.lean ====
section
/-!
DEFINITION. The meanings of the bitwise family: AND OR XOR SHL SHR NOT CMP TEST (`41_bitwise.md`).
-/

namespace Sys2Proof.Machine

/-- AND (R122). -/
def execAnd (r1 r2 r3 : U32) (s : State) : Host.Outcome State Fault Refusal :=
  complete .and s (binary aluAnd r1 r2 r3 s)

/-- OR (R123). -/
def execOr (r1 r2 r3 : U32) (s : State) : Host.Outcome State Fault Refusal :=
  complete .or s (binary aluOr r1 r2 r3 s)

/-- XOR (R124). -/
def execXor (r1 r2 r3 : U32) (s : State) : Host.Outcome State Fault Refusal :=
  complete .xor s (binary aluXor r1 r2 r3 s)

/-- NOT (R127). -/
def execNot (r1 r2 : U32) (s : State) : Host.Outcome State Fault Refusal :=
  complete .not s (unary aluNot r1 r2 s)

/-- SHL (R125). -/
def execShl (r1 r2 r3 : U32) (s : State) : Host.Outcome State Fault Refusal :=
  complete .shl s (binary (aluShift s.cfg.shiftOor .shl) r1 r2 r3 s)

/-- SHR (R126). -/
def execShr (r1 r2 r3 : U32) (s : State) : Host.Outcome State Fault Refusal :=
  complete .shr s (binary (aluShift s.cfg.shiftOor .shr) r1 r2 r3 s)

/-- CMP (R128). -/
def execCmp (r1 r2 r3 : U32) (s : State) : Host.Outcome State Fault Refusal :=
  complete .cmp s (binary aluSub r1 r2 r3 s)

/-- TEST (R129). -/
def execTest (r1 r2 r3 : U32) (s : State) : Host.Outcome State Fault Refusal :=
  complete .test s (binary aluAnd r1 r2 r3 s)

end Sys2Proof.Machine
end

