-- ==== Sys2Proof/Machine/Flags.lean ====
section
/-!
DEFINITION. The conditions of the conditional jumps. The core HAS NO FLAGS: no status flag, condition code or
predicate register exists, CMP and TEST write a result register, and conditional jumps test register values directly (`10_state.md` R34). So
there is no flag computation to define; what other machines read from flags are these tests of register values (`43_control_flow.md` R163 to R168).
-/

namespace Sys2Proof.Machine

/-- `x[reg1] == 0`: the condition of JZ and BZ (R163, R164). -/
def isZero (a : S32) : Bool := a == 0

/-- `x[reg1] != 0`: the condition of JNZ and BNZ (R165, R166). -/
def isNonZero (a : S32) : Bool := a != 0

/-- `x[reg1] == x[reg2]`: the condition of JE (R167). -/
def areEqual (a b : S32) : Bool := a == b

/-- `x[reg1] != x[reg2]`: the condition of JNE (R168). -/
def areUnequal (a b : S32) : Bool := a != b

end Sys2Proof.Machine
end

