-- ==== Sys2Proof/Machine/ControlFlow.lean ====
section
/-!
DEFINITION. The meanings of the control-flow family: JMP B JZ BZ JNZ BNZ JE JNE (`43_control_flow.md`). All eight redirect to
exactly `addr` (R171, assumption 18); the target is not checked (R170).
-/

namespace Sys2Proof.Machine

/-- JMP (R161). -/
def execJmp (addr : U32) (s : State) : Host.Outcome State Fault Refusal :=
  complete .jmp s (.redirect addr)

/-- B (R162). -/
def execB (addr : U32) (s : State) : Host.Outcome State Fault Refusal :=
  complete .b s (.redirect addr)

/-- JZ (R163). -/
def execJz (r1 addr : U32) (s : State) : Host.Outcome State Fault Refusal :=
  complete .jz s (branchIf isZero r1 addr s)

/-- BZ (R164). -/
def execBz (r1 addr : U32) (s : State) : Host.Outcome State Fault Refusal :=
  complete .bz s (branchIf isZero r1 addr s)

/-- JNZ (R165). -/
def execJnz (r1 addr : U32) (s : State) : Host.Outcome State Fault Refusal :=
  complete .jnz s (branchIf isNonZero r1 addr s)

/-- BNZ (R166). -/
def execBnz (r1 addr : U32) (s : State) : Host.Outcome State Fault Refusal :=
  complete .bnz s (branchIf isNonZero r1 addr s)

/-- JE (R167). -/
def execJe (r1 r2 addr : U32) (s : State) : Host.Outcome State Fault Refusal :=
  complete .je s (branchIf2 areEqual r1 r2 addr s)

/-- JNE (R168). -/
def execJne (r1 r2 addr : U32) (s : State) : Host.Outcome State Fault Refusal :=
  complete .jne s (branchIf2 areUnequal r1 r2 addr s)

end Sys2Proof.Machine
end

