-- ==== Sys2Proof/Machine/DataMovement.lean ====
section
/-!
DEFINITION. The meanings of the data movement family: LOAD STORE LI MOV PUSH POP (`42_data_movement.md`).
-/

namespace Sys2Proof.Machine

/-- LOAD (R141): the address is checked before the destination register. -/
def execLoad (r1 addr : U32) (s : State) : Host.Outcome State Fault Refusal :=
  complete .load s (memRead addr s fun v => regWrite .reg1 r1 v s)

/-- STORE (R142). -/
def execStore (r1 addr : U32) (s : State) : Host.Outcome State Fault Refusal :=
  complete .store s (regRead .reg1 r1 s fun v => memWrite addr v s)

/-- LI (R143). -/
def execLi (r1 : U32) (imm : S32) (s : State) : Host.Outcome State Fault Refusal :=
  complete .li s (regWrite .reg1 r1 imm s)

/-- MOV (R144): the first operand is the destination, and the source is checked first. -/
def execMov (r1 r2 : U32) (s : State) : Host.Outcome State Fault Refusal :=
  complete .mov s (regRead .reg2 r2 s fun v => regWrite .reg1 r1 v s)

/-- PUSH (R145). -/
def execPush (r1 : U32) (s : State) : Host.Outcome State Fault Refusal :=
  complete .push s (regRead .reg1 r1 s fun v => pushWord v s)

/-- POP (R146): a bad destination leaves `sp` where it was, since a raised fault discards the moved `sp` (decision D15). -/
def execPop (r1 : U32) (s : State) : Host.Outcome State Fault Refusal :=
  complete .pop s (popWord s fun v t => regWrite .reg1 r1 v t)

end Sys2Proof.Machine
end

