-- ==== Sys2Proof/Machine/Misc.lean ====
section
/-!
DEFINITION. The meanings of the miscellaneous family: NOP HALT (`44_misc.md`), the only system-class instructions (R182).
-/

namespace Sys2Proof.Machine

/-- NOP (R180): registers, memory and `sp` stay; the engine counts it and moves on. -/
def execNop (s : State) : Host.Outcome State Fault Refusal :=
  complete .nop s (.commit s)

/-- HALT (R181): Halted, with `pc` and `executed_count` unchanged. -/
def execHalt (s : State) : Host.Outcome State Fault Refusal :=
  complete .halt s .halt

end Sys2Proof.Machine
end

