-- ==== Sys2Proof/Syntax.lean ====
section
/-!
DEFINITION. The instructions of the MDPU core: one constructor per row of `spec/opcode_table.json`, carrying the
slots that `30_encoding.md` R85 marks as used by that opcode, in slot order. The slots R85 marks as ignored are dropped by the decoder
(R87, assumption 19).
-/

namespace Sys2Proof

/-- A decoded instruction (R81, R85). -/
inductive Instr where
  /-- Tag 0, `44_misc.md` R180. -/
  | nop
  /-- Tag 1, `40_arithmetic.md` R103: `x[reg3] = x[reg1] + x[reg2]`. -/
  | add (reg1 reg2 reg3 : U32)
  /-- Tag 2, R104: `x[reg3] = x[reg1] - x[reg2]`. -/
  | sub (reg1 reg2 reg3 : U32)
  /-- Tag 3, R105: `x[reg3] = x[reg1] * x[reg2]`. -/
  | mul (reg1 reg2 reg3 : U32)
  /-- Tag 4, R106: `x[reg3] = x[reg1] / x[reg2]`. -/
  | div (reg1 reg2 reg3 : U32)
  /-- Tag 5, `42_data_movement.md` R142: `mem[addr] = x[reg1]`. -/
  | store (reg1 addr : U32)
  /-- Tag 6, R141: `x[reg1] = mem[addr]`. -/
  | load (reg1 addr : U32)
  /-- Tag 7, R143: `x[reg1] = imm`. -/
  | li (reg1 : U32) (imm : S32)
  /-- Tag 8, R145: `Push(x[reg1])`. -/
  | push (reg1 : U32)
  /-- Tag 9, R146: `x[reg1] = Pop()`. -/
  | pop (reg1 : U32)
  /-- Tag 10, `43_control_flow.md` R161: `pc = addr`. -/
  | jmp (addr : U32)
  /-- Tag 11, R163: `if x[reg1] == 0: pc = addr`. -/
  | jz (reg1 addr : U32)
  /-- Tag 12, R165: `if x[reg1] != 0: pc = addr`. -/
  | jnz (reg1 addr : U32)
  /-- Tag 13, `42_data_movement.md` R144: `x[reg1] = x[reg2]`. -/
  | mov (reg1 reg2 : U32)
  /-- Tag 14, `43_control_flow.md` R167: `if x[reg1] == x[reg2]: pc = addr`. -/
  | je (reg1 reg2 addr : U32)
  /-- Tag 15, R168: `if x[reg1] != x[reg2]: pc = addr`. -/
  | jne (reg1 reg2 addr : U32)
  /-- Tag 16, `41_bitwise.md` R122: `x[reg3] = x[reg1] & x[reg2]`. -/
  | and (reg1 reg2 reg3 : U32)
  /-- Tag 17, R123: `x[reg3] = x[reg1] | x[reg2]`. -/
  | or (reg1 reg2 reg3 : U32)
  /-- Tag 18, R124: `x[reg3] = x[reg1] ^ x[reg2]`. -/
  | xor (reg1 reg2 reg3 : U32)
  /-- Tag 19, R127: `x[reg2] = ~x[reg1]`. -/
  | not (reg1 reg2 : U32)
  /-- Tag 20, R125: `x[reg3] = x[reg1] << x[reg2]`. -/
  | shl (reg1 reg2 reg3 : U32)
  /-- Tag 21, R126: `x[reg3] = x[reg1] >>a x[reg2]`. -/
  | shr (reg1 reg2 reg3 : U32)
  /-- Tag 22, R128: `x[reg3] = x[reg1] - x[reg2]`. -/
  | cmp (reg1 reg2 reg3 : U32)
  /-- Tag 23, R129: `x[reg3] = x[reg1] & x[reg2]`. -/
  | test (reg1 reg2 reg3 : U32)
  /-- Tag 24, `43_control_flow.md` R162: `pc = addr`. -/
  | b (addr : U32)
  /-- Tag 25, R164: `if x[reg1] == 0: pc = addr`. -/
  | bz (reg1 addr : U32)
  /-- Tag 26, R166: `if x[reg1] != 0: pc = addr`. -/
  | bnz (reg1 addr : U32)
  /-- Tag 27, `40_arithmetic.md` R108: `x[reg2] = -x[reg1]`. -/
  | neg (reg1 reg2 : U32)
  /-- Tag 28, R109: `x[reg2] = abs(x[reg1])`. -/
  | abs (reg1 reg2 : U32)
  /-- Tag 29, R107: `x[reg3] = x[reg1] % x[reg2]`. -/
  | mod (reg1 reg2 reg3 : U32)
  /-- Tag 30, R110: `x[reg1] = x[reg1] + 1`. -/
  | inc (reg1 : U32)
  /-- Tag 31, R111: `x[reg1] = x[reg1] - 1`. -/
  | dec (reg1 : U32)
  /-- Tag 32, `44_misc.md` R181: end the run. -/
  | halt
  deriving DecidableEq, Repr

end Sys2Proof
end

