-- ==== Sys2Proof/Machine/Dispatch.lean ====
section
/-! DEFINITION. Dispatch: one arm per instruction, a closed 33-way match (`30_encoding.md` R90, `45_execution_engine.md` R192). -/

namespace Sys2Proof.Machine

/-- The meaning of an instruction in a state. -/
def exec (i : Instr) (s : State) : Host.Outcome State Fault Refusal :=
  match i with
  | .nop => Sys2Proof.Machine.execNop s
  | .add r1 r2 r3 => Sys2Proof.Machine.execAdd r1 r2 r3 s
  | .sub r1 r2 r3 => Sys2Proof.Machine.execSub r1 r2 r3 s
  | .mul r1 r2 r3 => Sys2Proof.Machine.execMul r1 r2 r3 s
  | .div r1 r2 r3 => Sys2Proof.Machine.execDiv r1 r2 r3 s
  | .store r1 addr => Sys2Proof.Machine.execStore r1 addr s
  | .load r1 addr => Sys2Proof.Machine.execLoad r1 addr s
  | .li r1 imm => Sys2Proof.Machine.execLi r1 imm s
  | .push r1 => Sys2Proof.Machine.execPush r1 s
  | .pop r1 => Sys2Proof.Machine.execPop r1 s
  | .jmp addr => Sys2Proof.Machine.execJmp addr s
  | .jz r1 addr => Sys2Proof.Machine.execJz r1 addr s
  | .jnz r1 addr => Sys2Proof.Machine.execJnz r1 addr s
  | .mov r1 r2 => Sys2Proof.Machine.execMov r1 r2 s
  | .je r1 r2 addr => Sys2Proof.Machine.execJe r1 r2 addr s
  | .jne r1 r2 addr => Sys2Proof.Machine.execJne r1 r2 addr s
  | .and r1 r2 r3 => Sys2Proof.Machine.execAnd r1 r2 r3 s
  | .or r1 r2 r3 => Sys2Proof.Machine.execOr r1 r2 r3 s
  | .xor r1 r2 r3 => Sys2Proof.Machine.execXor r1 r2 r3 s
  | .not r1 r2 => Sys2Proof.Machine.execNot r1 r2 s
  | .shl r1 r2 r3 => Sys2Proof.Machine.execShl r1 r2 r3 s
  | .shr r1 r2 r3 => Sys2Proof.Machine.execShr r1 r2 r3 s
  | .cmp r1 r2 r3 => Sys2Proof.Machine.execCmp r1 r2 r3 s
  | .test r1 r2 r3 => Sys2Proof.Machine.execTest r1 r2 r3 s
  | .b addr => Sys2Proof.Machine.execB addr s
  | .bz r1 addr => Sys2Proof.Machine.execBz r1 addr s
  | .bnz r1 addr => Sys2Proof.Machine.execBnz r1 addr s
  | .neg r1 r2 => Sys2Proof.Machine.execNeg r1 r2 s
  | .abs r1 r2 => Sys2Proof.Machine.execAbs r1 r2 s
  | .mod r1 r2 r3 => Sys2Proof.Machine.execMod r1 r2 r3 s
  | .inc r1 => Sys2Proof.Machine.execInc r1 s
  | .dec r1 => Sys2Proof.Machine.execDec r1 s
  | .halt => Sys2Proof.Machine.execHalt s

end Sys2Proof.Machine
end

