-- ==== Sys2Proof/Decode.lean ====
section
/-!
DEFINITION. The decoder and the encoder of format W6 (`30_encoding.md` R82 to R90). Decoding is total: a word whose
tag is 33 or more is rejected by name (R88), every other word is an instruction. The fields, the tag numbers and the roles are written from
the tables of R82, R84 and R85 (layout and numbers are the spec's decisions D1, D2: assumption 17).
-/

namespace Sys2Proof

/-- Why a word spells no instruction (R88). -/
inductive DecodeError where
  /-- The word's `opcode` field, 33 or more. -/
  | unknownOpcode (tag : U32)
  deriving DecidableEq, Repr

/-! ### The fields of a word (R82) -/

/-- Bits 31..0, word W0. -/
def InstrWord.opcode (w : InstrWord) : U32 := w.extractLsb' 0 32
/-- Bits 63..32, word W1. -/
def InstrWord.reg1 (w : InstrWord) : U32 := w.extractLsb' 32 32
/-- Bits 95..64, word W2. -/
def InstrWord.reg2 (w : InstrWord) : U32 := w.extractLsb' 64 32
/-- Bits 127..96, word W3. -/
def InstrWord.reg3 (w : InstrWord) : U32 := w.extractLsb' 96 32
/-- Bits 159..128, word W4. -/
def InstrWord.addr (w : InstrWord) : U32 := w.extractLsb' 128 32
/-- Bits 191..160, word W5; the pattern is the two's-complement reading of R86. -/
def InstrWord.imm (w : InstrWord) : S32 := w.extractLsb' 160 32

/-- The word with the given fields: `{imm, addr, reg3, reg2, reg1, opcode}` (R82). -/
def InstrWord.ofFields (opcode reg1 reg2 reg3 addr : U32) (imm : S32) : InstrWord :=
  imm ++ addr ++ reg3 ++ reg2 ++ reg1 ++ opcode

/-- The slot of a word by name. -/
def InstrWord.slot (w : InstrWord) : Slot → BitVec 32
  | .reg1 => w.reg1
  | .reg2 => w.reg2
  | .reg3 => w.reg3
  | .addr => w.addr
  | .imm => w.imm

/-! ### The opcode map (R84) and the roles (R85) -/

/-- The tag number of an opcode (R84). -/
def Opcode.tag : Opcode → Nat
  | .nop => 0 | .add => 1 | .sub => 2 | .mul => 3 | .div => 4 | .store => 5 | .load => 6 | .li => 7
  | .push => 8 | .pop => 9 | .jmp => 10 | .jz => 11 | .jnz => 12 | .mov => 13 | .je => 14 | .jne => 15
  | .and => 16 | .or => 17 | .xor => 18 | .not => 19 | .shl => 20 | .shr => 21 | .cmp => 22 | .test => 23
  | .b => 24 | .bz => 25 | .bnz => 26 | .neg => 27 | .abs => 28 | .mod => 29 | .inc => 30 | .dec => 31
  | .halt => 32

/-- The opcodes in tag order, tag 0 first (R84). -/
def opcodeMap : List Opcode :=
  [.nop, .add, .sub, .mul, .div, .store, .load, .li, .push, .pop, .jmp] ++
  [.jz, .jnz, .mov, .je, .jne, .and, .or, .xor, .not, .shl, .shr] ++
  [.cmp, .test, .b, .bz, .bnz, .neg, .abs, .mod, .inc, .dec, .halt]

/-- The opcode of a tag number; none from 33 on (R88). -/
def Opcode.ofTag? (n : Nat) : Option Opcode := opcodeMap[n]?

/-- The roles of the five slots `reg1, reg2, reg3, addr, imm` of an opcode: the rows of the table of R85. -/
def Opcode.roles : Opcode → Role × Role × Role × Role × Role
  | .nop | .halt => (.ignored, .ignored, .ignored, .ignored, .ignored)
  | .add | .sub | .mul | .div | .mod | .and | .or | .xor | .shl | .shr | .cmp | .test =>
    (.src, .src, .dst, .ignored, .ignored)
  | .neg | .abs | .not => (.src, .dst, .ignored, .ignored, .ignored)
  | .inc | .dec => (.srcDst, .ignored, .ignored, .ignored, .ignored)
  | .load => (.dst, .ignored, .ignored, .mem, .ignored)
  | .store => (.src, .ignored, .ignored, .mem, .ignored)
  | .li => (.dst, .ignored, .ignored, .ignored, .lit)
  | .mov => (.dst, .src, .ignored, .ignored, .ignored)
  | .push => (.src, .ignored, .ignored, .ignored, .ignored)
  | .pop => (.dst, .ignored, .ignored, .ignored, .ignored)
  | .jmp | .b => (.ignored, .ignored, .ignored, .tgt, .ignored)
  | .jz | .bz | .jnz | .bnz => (.src, .ignored, .ignored, .tgt, .ignored)
  | .je | .jne => (.src, .src, .ignored, .tgt, .ignored)

/-- The role of one slot of an opcode (R85). -/
def Opcode.role (op : Opcode) : Slot → Role
  | .reg1 => op.roles.1
  | .reg2 => op.roles.2.1
  | .reg3 => op.roles.2.2.1
  | .addr => op.roles.2.2.2.1
  | .imm => op.roles.2.2.2.2

/-- The opcode of an instruction. -/
def Instr.opcode : Instr → Opcode
  | .nop => .nop | .add .. => .add | .sub .. => .sub | .mul .. => .mul | .div .. => .div
  | .store .. => .store | .load .. => .load | .li .. => .li | .push .. => .push | .pop .. => .pop
  | .jmp .. => .jmp | .jz .. => .jz | .jnz .. => .jnz | .mov .. => .mov | .je .. => .je | .jne .. => .jne
  | .and .. => .and | .or .. => .or | .xor .. => .xor | .not .. => .not | .shl .. => .shl | .shr .. => .shr
  | .cmp .. => .cmp | .test .. => .test | .b .. => .b | .bz .. => .bz | .bnz .. => .bnz | .neg .. => .neg
  | .abs .. => .abs | .mod .. => .mod | .inc .. => .inc | .dec .. => .dec | .halt => .halt

/-! ### Decoding (R86, R88, R90) -/

/-- The instruction of an opcode with the given slots: only the slots R85 marks as used are looked at (R87). -/
def Opcode.instr (reg1 reg2 reg3 addr : U32) (imm : S32) : Opcode → Instr
  | .nop => .nop
  | .add => .add reg1 reg2 reg3
  | .sub => .sub reg1 reg2 reg3
  | .mul => .mul reg1 reg2 reg3
  | .div => .div reg1 reg2 reg3
  | .store => .store reg1 addr
  | .load => .load reg1 addr
  | .li => .li reg1 imm
  | .push => .push reg1
  | .pop => .pop reg1
  | .jmp => .jmp addr
  | .jz => .jz reg1 addr
  | .jnz => .jnz reg1 addr
  | .mov => .mov reg1 reg2
  | .je => .je reg1 reg2 addr
  | .jne => .jne reg1 reg2 addr
  | .and => .and reg1 reg2 reg3
  | .or => .or reg1 reg2 reg3
  | .xor => .xor reg1 reg2 reg3
  | .not => .not reg1 reg2
  | .shl => .shl reg1 reg2 reg3
  | .shr => .shr reg1 reg2 reg3
  | .cmp => .cmp reg1 reg2 reg3
  | .test => .test reg1 reg2 reg3
  | .b => .b addr
  | .bz => .bz reg1 addr
  | .bnz => .bnz reg1 addr
  | .neg => .neg reg1 reg2
  | .abs => .abs reg1 reg2
  | .mod => .mod reg1 reg2 reg3
  | .inc => .inc reg1
  | .dec => .dec reg1
  | .halt => .halt

/-- The instruction a word spells: the rule is selected by the `opcode` field alone (R82, R90). -/
def decode (w : InstrWord) : Except DecodeError Instr :=
  match Opcode.ofTag? (InstrWord.opcode w).toNat with
  | some op => .ok (op.instr (InstrWord.reg1 w) (InstrWord.reg2 w) (InstrWord.reg3 w) (InstrWord.addr w) (InstrWord.imm w))
  | none => .error (.unknownOpcode (InstrWord.opcode w))

/-! ### Encoding (R82, R84; ignored slots are 0 as in R91) -/

/-- The slots `(reg1, reg2, reg3, addr, imm)` of an instruction, 0 in the slots its opcode ignores (R85, R91). -/
def Instr.slots : Instr → U32 × U32 × U32 × U32 × S32
  | .nop | .halt => (0, 0, 0, 0, 0)
  | .add r1 r2 r3 | .sub r1 r2 r3 | .mul r1 r2 r3 | .div r1 r2 r3 | .mod r1 r2 r3 | .and r1 r2 r3
  | .or r1 r2 r3 | .xor r1 r2 r3 | .shl r1 r2 r3 | .shr r1 r2 r3 | .cmp r1 r2 r3 | .test r1 r2 r3 => (r1, r2, r3, 0, 0)
  | .neg r1 r2 | .abs r1 r2 | .not r1 r2 | .mov r1 r2 => (r1, r2, 0, 0, 0)
  | .inc r1 | .dec r1 | .push r1 | .pop r1 => (r1, 0, 0, 0, 0)
  | .load r1 a | .store r1 a | .jz r1 a | .bz r1 a | .jnz r1 a | .bnz r1 a => (r1, 0, 0, a, 0)
  | .li r1 v => (r1, 0, 0, 0, v)
  | .jmp a | .b a => (0, 0, 0, a, 0)
  | .je r1 r2 a | .jne r1 r2 a => (r1, r2, 0, a, 0)

/-- The word of an instruction (R82, R84). -/
def encode (i : Instr) : InstrWord :=
  let (r1, r2, r3, a, v) := i.slots
  InstrWord.ofFields (BitVec.ofNat 32 i.opcode.tag) r1 r2 r3 a v

/-- The host's question about one row of the opcode table: the instruction the decoder reads from the word whose low `nbits` bits are `w`
and whose other bits are 0. The bits are numbered as R82 numbers them, so no byte order enters (R83). -/
def decodeTableWord (nbits w : Nat) : Option Instr :=
  match decode (BitVec.ofNat 192 (w % 2 ^ nbits)) with
  | .ok i => some i
  | .error _ => none

end Sys2Proof
end

