-- ==== Sys2Proof/WellFormed.lean ====
section
/-!
DEFINITION. What a legal configuration is (`00_scope.md` R6, R7; `30_encoding.md` R88), one check per parameter. An
`Instr` needs no check of its own: its operands are typed `u32` and `s32`, and every value of every used field is legal at decode (R89). What can be ill formed is an
instruction WORD, a program, a capacity or a budget. `SHIFT_OOR` is total, so it has no illegal value.
-/

namespace Sys2Proof

/-- A word is a legal instruction word exactly when it decodes (R88). -/
def wordLegal (w : InstrWord) : Bool :=
  match decode w with
  | .ok _ => true
  | .error _ => false

/-- 1 to 2^32 (R6): the range of `NUM_REGISTERS` and of `MEMORY_SIZE`. -/
def capacityLegal (n : Nat) : Bool := decide (1 ≤ n ∧ n ≤ 4294967296)

/-- 1 to 2^64 - 1 (R6); the upper bound is the type's. -/
def budgetLegal (b : U64) : Bool := decide (1 ≤ b.toNat)

/-- 0 to 2^32 - 1 (R6). -/
def programLengthLegal (p : List InstrWord) : Bool := decide (p.length ≤ 4294967295)

/-- Every word of a program is a legal instruction word (R6, R88). -/
def programWordsLegal (p : List InstrWord) : Bool := p.all wordLegal

/-- A legal configuration of a machine with `numRegisters` registers (R6). -/
def Config.legal (numRegisters : Nat) (c : Config) : Bool :=
  capacityLegal numRegisters && capacityLegal c.memorySize && budgetLegal c.budget && programLengthLegal c.program &&
    programWordsLegal c.program

end Sys2Proof
end

