-- ==== Sys2Proof/Machine/Engine.lean ====
section
/-!
DEFINITION. The execution engine around `exec`: the refusal of an illegal configuration before the first step (`00_scope.md` R7), the two checks
before fetch and the fetch (`45_execution_engine.md` R191, R192). `Machine/Step.lean` only puts them together.
-/

namespace Sys2Proof.Machine

/-- Why a machine is refused before it runs, if it is (`00_scope.md` R7, `30_encoding.md` R88). It depends on the capacities and the configuration
alone, which no step changes, so asking at every step is asking before the first (assumption 6). -/
def bootRefusal (s : State) : Option Refusal :=
  if !capacityLegal s.numRegisters then some .illegalRegisterCount
  else if !capacityLegal s.cfg.memorySize then some .illegalMemorySize
  else if !budgetLegal s.cfg.budget then some .illegalBudget
  else if !programLengthLegal s.cfg.program then some .illegalProgramLength
  else if !programWordsLegal s.cfg.program then some .illegalProgramWord
  else none

/-- R191 item 1: `executed_count >= BUDGET`. -/
def budgetSpent (s : State) : Bool := decide (s.cfg.budget.toNat ≤ s.executedCount.toNat)

/-- The word at `pc`, or none where `pc >= PROGRAM_LENGTH` (R191 items 2 and 3, `30_encoding.md` R83). -/
def fetch? (s : State) : Option InstrWord := s.cfg.program[s.pc.toNat]?

/-- One step of a Running machine with a legal configuration (R191 to R193): the budget, the end of the program, the fetched instruction, in
this order (decision D13: assumption 16). -/
def runningStep (s : State) : Host.Outcome State Fault Refusal :=
  if budgetSpent s then .next (s.takeFault none (.budgetExceeded s.executedCount))
  else
    match fetch? s with
    | none => .next s.halt
    | some w =>
      match decode w with
      | .ok i => exec i s
      | .error _ => .refused .illegalProgramWord

/-- The program store with `w` at index `k`: a shorter program is filled up with the all-zero word, which is a NOP (`44_misc.md` R180). -/
def placeWord (p : List InstrWord) (k : Nat) (w : InstrWord) : List InstrWord :=
  p.take k ++ List.replicate (k - p.length) 0 ++ w :: p.drop (k + 1)

/-- The largest `pc` at which a legal program can hold a word is 2^32 - 2 (`10_state.md` R27). -/
def pcFetchable (s : State) : Bool := decide (s.pc.toNat < 4294967295)

end Sys2Proof.Machine
end

