-- ==== Sys2Proof/Machine/Step.lean ====
section
/-!
DEFINITION. The step of the machine (`45_execution_engine.md` R190 to R193), and where the step fetches its next instruction.
-/

namespace Sys2Proof.Machine

/-- One step. It is defined in Running only (R190): Halted and Faulted are terminal (`10_state.md` R31). -/
def step (s : State) : Host.Outcome State Fault Refusal :=
  match s.runState with
  | .halted => .fault .stepAfterHalted
  | .faulted => .fault .stepAfterFaulted
  | .running =>
    match bootRefusal s with
    | some r => .refused r
    | none => runningStep s

/-- `s` with a program loaded whose word at `pc` has the low `nbits` bits of `w` and zeros above, ready to run it: Running with no fault and budget
left. A state that already is all that keeps everything but the program store (assumption 4). -/
def State.withFetchWord (s : State) (nbits w : Nat) : State :=
  let pc := if pcFetchable s then s.pc else 0
  { s with
    cfg := { s.cfg with program := placeWord s.cfg.program pc.toNat (BitVec.ofNat 192 (w % 2 ^ nbits)) }
    pc := pc
    executedCount := if budgetSpent s then 0 else s.executedCount
    runState := .running
    fault := none }

end Sys2Proof.Machine
end

