-- ==== Sys2Proof/Machine/HostInterface.lean ====
section
/-!
DEFINITION. What the host can do (`45_execution_engine.md` R194 to R199): construct a machine, let it run to its end, and read the result.
-/

namespace Sys2Proof.Machine

/-- Construction and program load (R196, R197, `70_reset_and_hazards.md` R242): a Running machine in its reset state, or the reason the
configuration is refused before the first step (`00_scope.md` R7). -/
def construct? (numRegisters : Nat) (cfg : Config) : Except Refusal State :=
  match bootRefusal (State.construct numRegisters cfg) with
  | some r => .error r
  | none => .ok (State.construct numRegisters cfg)

/-- A run (R194): steps until `run_state` is not Running, at most `fuel` of them. -/
def run : Nat → State → Host.Outcome State Fault Refusal
  | 0, s => .next s
  | n + 1, s =>
    match s.runState with
    | .running =>
      match step s with
      | .next t => run n t
      | .fault r => .fault r
      | .refused r => .refused r
    | _ => .next s

/-- The live stack (`20_memory.md` R69): `mem[sp+1 .. MEMORY_SIZE-1]` in increasing address order, most recently pushed first. -/
def liveStack (s : State) : List S32 :=
  (List.range (s.cfg.memorySize - 1 - s.sp.toNat)).map fun k => Memory.read (s.sp.toNat + 1 + k) s.mem

/-- The final snapshot (R198). -/
structure Snapshot where
  registers : List S32
  stack : List S32
  deriving DecidableEq, Repr

/-- The snapshot the host reads after a run; it is defined for a run that ends Halted (R198, decision D23). -/
def snapshot? (s : State) : Option Snapshot :=
  match s.runState with
  | .halted => some { registers := s.regs, stack := liveStack s }
  | _ => none

/-- What the host reads after a run that ends Faulted: the record, with the frozen `x`, `mem`, `sp` readable in the state itself (R198, D23). -/
def faultReport? (s : State) : Option FaultRecord :=
  match s.runState with
  | .faulted => s.fault
  | _ => none

end Sys2Proof.Machine
end

