-- ==== Sys2Proof/Safety.lean ====
section
/-!
DEFINITION. The states of the hardware and the runs that count as successful.
-/

namespace Sys2Proof.Machine

/-- A state of this hardware: what construction gives and every step keeps. Claims over all states take it as a premise where they would fail only
in states no run reaches. -/
structure State.Inv (s : State) : Prop where
  /-- The configuration is legal (`00_scope.md` R6, R7). -/
  boots : bootRefusal s = none
  /-- The memory is in canonical form. -/
  memWf : Memory.wf s.mem = true
  /-- Every listed cell exists (`20_memory.md` R55). -/
  memBelow : Memory.below s.cfg.memorySize s.mem = true
  /-- `0 <= sp <= MEMORY_SIZE - 1` (`10_state.md` R25, R28). -/
  spInMemory : s.sp.toNat < s.cfg.memorySize
  /-- `executed_count <= BUDGET` (`10_state.md` R30). -/
  countWithinBudget : s.executedCount.toNat ≤ s.cfg.budget.toNat
  /-- The fault record is written exactly in Faulted (`10_state.md` R32). -/
  faultIffFaulted : s.fault.isSome ↔ s.runState = .faulted

/-- A run has ended (`45_execution_engine.md` R200). -/
def State.Ended (s : State) : Prop := s.runState ≠ .running

/-- A run that ended without a fault. A Faulted run is never a successful run (`60_exceptions.md` R217). -/
def State.Successful (s : State) : Prop := s.runState = .halted

/-- A state that is not a failed run. -/
def State.Safe (s : State) : Prop := s.runState ≠ .faulted

end Sys2Proof.Machine
end

