-- ==== Sys2Proof/Certificates/Slice0/Obligations.lean ====
section
/-!
DEFINITION. The statements about the model, one `def Obligations.<Name> : Prop` each, and the vocabulary they are written in. The vocabulary is
written from the spec's own formulas, not from the model's helpers, so that a slip in a helper makes a statement false. Marks such as D7 name a row of
`spec/92_eei_decisions.md`: a point the source leaves open and the spec decides.
-/

namespace Sys2Proof.Claims

open Sys2Proof.Machine

/-! ### States after an instruction -/

/-- `s` after taking a fault of opcode `op`: only `run_state` and `fault` differ (`60_exceptions.md` R212, R216). -/
def faultedWith (s : State) (op : Opcode) (d : FaultDetail) : State :=
  { s with runState := .faulted, fault := some { pc := s.pc, opcode := some op, detail := d } }

/-- `s` after a fall-through that wrote `v` to register `i` and nothing else. -/
def afterReg (s : State) (i : U32) (v : S32) : State :=
  { s with regs := s.regs.set i.toNat v, pc := s.pc + 1, executedCount := s.executedCount + 1 }

/-- `s` after a fall-through that wrote nothing. -/
def afterNothing (s : State) : State := { s with pc := s.pc + 1, executedCount := s.executedCount + 1 }

/-- `s` after a taken jump to `a`. -/
def afterJump (s : State) (a : U32) : State := { s with pc := a, executedCount := s.executedCount + 1 }

/-! ### Tables of the spec over the instructions -/

/-- The target of a jump (`30_encoding.md` R85, role `tgt`). -/
def jumpTarget : Instr → Option U32
  | .jmp a | .b a | .jz _ a | .bz _ a | .jnz _ a | .bnz _ a | .je _ _ a | .jne _ _ a => some a
  | .nop | .halt | .add .. | .sub .. | .mul .. | .div .. | .mod .. | .neg .. | .abs .. | .inc .. | .dec .. | .and .. | .or .. | .xor ..
  | .shl .. | .shr .. | .not .. | .cmp .. | .test .. | .load .. | .store .. | .li .. | .mov .. | .push .. | .pop .. => none

/-- The condition under which a jump is taken (`43_control_flow.md` R160 to R168). -/
def jumpTaken (s : State) : Instr → Prop
  | .jmp _ | .b _ => True
  | .jz r _ | .bz r _ => ∃ v, s.regs[r.toNat]? = some v ∧ v.toInt = 0
  | .jnz r _ | .bnz r _ => ∃ v, s.regs[r.toNat]? = some v ∧ v.toInt ≠ 0
  | .je r q _ => ∃ v w, s.regs[r.toNat]? = some v ∧ s.regs[q.toNat]? = some w ∧ v.toInt = w.toInt
  | .jne r q _ => ∃ v w, s.regs[r.toNat]? = some v ∧ s.regs[q.toNat]? = some w ∧ v.toInt ≠ w.toInt
  | .nop | .halt | .add .. | .sub .. | .mul .. | .div .. | .mod .. | .neg .. | .abs .. | .inc .. | .dec .. | .and .. | .or .. | .xor ..
  | .shl .. | .shr .. | .not .. | .cmp .. | .test .. | .load .. | .store .. | .li .. | .mov .. | .push .. | .pop .. => False

/-- The register an instruction writes (`30_encoding.md` R85, roles `dst` and `src+dst`). -/
def destination : Instr → Option U32
  | .add _ _ d | .sub _ _ d | .mul _ _ d | .div _ _ d | .mod _ _ d | .and _ _ d | .or _ _ d | .xor _ _ d | .shl _ _ d | .shr _ _ d
  | .cmp _ _ d | .test _ _ d => some d
  | .neg _ d | .abs _ d | .not _ d => some d
  | .inc d | .dec d | .load d _ | .li d _ | .mov d _ | .pop d => some d
  | .nop | .halt | .store .. | .push .. | .jmp .. | .b .. | .jz .. | .bz .. | .jnz .. | .bnz .. | .je .. | .jne .. => none

/-- The memory address an instruction stores to: `addr` of STORE, `sp` of PUSH (`42_data_movement.md` R140, R142, R145). -/
def storedAddress (s : State) : Instr → Option Nat
  | .store _ a => some a.toNat
  | .push _ => some s.sp.toNat
  | .nop | .halt | .add .. | .sub .. | .mul .. | .div .. | .mod .. | .neg .. | .abs .. | .inc .. | .dec .. | .and .. | .or .. | .xor ..
  | .shl .. | .shr .. | .not .. | .cmp .. | .test .. | .load .. | .li .. | .mov .. | .pop .. | .jmp .. | .b .. | .jz .. | .bz .. | .jnz ..
  | .bnz .. | .je .. | .jne .. => none

/-- A used register slot is out of range (`60_exceptions.md` R210). -/
def badReg (s : State) (slot : Slot) (r : U32) : Bool × FaultDetail :=
  (decide (s.regs.length ≤ r.toNat), .outOfBounds .reg slot r)

/-- The address of LOAD or STORE is out of range (`60_exceptions.md` R210). -/
def badAddr (s : State) (a : U32) : Bool × FaultDetail :=
  (decide (s.cfg.memorySize ≤ a.toNat), .outOfBounds .mem .addr a)

/-- The divisor register holds 0 (`60_exceptions.md` R210). -/
def zeroDivisor (s : State) (r : U32) : Bool × FaultDetail :=
  (decide (s.regs[r.toNat]? = some 0), .divisionByZero r)

/-- The checks of an instruction with the fault each reports, in the order they are tested: the table of `60_exceptions.md` R211. -/
def faultChecks (s : State) : Instr → List (Bool × FaultDetail)
  | .nop | .halt | .jmp _ | .b _ => []
  | .add r1 r2 r3 | .sub r1 r2 r3 | .mul r1 r2 r3 | .and r1 r2 r3 | .or r1 r2 r3 | .xor r1 r2 r3 | .shl r1 r2 r3 | .shr r1 r2 r3
  | .cmp r1 r2 r3 | .test r1 r2 r3 => [badReg s .reg1 r1, badReg s .reg2 r2, badReg s .reg3 r3]
  | .div r1 r2 r3 | .mod r1 r2 r3 => [badReg s .reg1 r1, badReg s .reg2 r2, zeroDivisor s r2, badReg s .reg3 r3]
  | .neg r1 r2 | .abs r1 r2 | .not r1 r2 => [badReg s .reg1 r1, badReg s .reg2 r2]
  | .inc r1 | .dec r1 | .li r1 _ => [badReg s .reg1 r1]
  | .mov r1 r2 => [badReg s .reg2 r2, badReg s .reg1 r1]
  | .load r1 a => [badAddr s a, badReg s .reg1 r1]
  | .store r1 a => [badReg s .reg1 r1, badAddr s a]
  | .push r1 => [badReg s .reg1 r1, (decide (s.sp.toNat = 0), .stackOverflow s.sp)]
  | .pop r1 => [(decide (s.sp.toNat = s.cfg.memorySize - 1), .stackUnderflow s.sp), badReg s .reg1 r1]
  | .jz r1 _ | .bz r1 _ | .jnz r1 _ | .bnz r1 _ => [badReg s .reg1 r1]
  | .je r1 r2 _ | .jne r1 r2 _ => [badReg s .reg1 r1, badReg s .reg2 r2]

/-- The fault of the first check that fails (`60_exceptions.md` R214). -/
def firstFault (s : State) (i : Instr) : Option FaultDetail := ((faultChecks s i).find? (·.1)).map (·.2)

/-! ### Shapes of rules -/

/-- A word with tag `tag` decodes to `mk` of its fields `reg1, reg2, reg3, addr, imm` at the bits of the table of `30_encoding.md` R82. -/
def SpelledBy (tag : Nat) (mk : U32 → U32 → U32 → U32 → S32 → Instr) : Prop :=
  ∀ w : InstrWord, (w.extractLsb' 0 32).toNat = tag →
    decode w = .ok (mk (w.extractLsb' 32 32) (w.extractLsb' 64 32) (w.extractLsb' 96 32) (w.extractLsb' 128 32) (w.extractLsb' 160 32))

/-- A rule `x[reg3] <- f(x[reg1], x[reg2])` with the bounds checks of reg1, reg2, reg3 in this order. -/
def ThreeOperandRule (op : Opcode) (mk : U32 → U32 → U32 → Instr) (f : S32 → S32 → S32) : Prop :=
  ∀ (s : State) (r1 r2 r3 : U32),
    (∀ a b, s.regs[r1.toNat]? = some a → s.regs[r2.toNat]? = some b → r3.toNat < s.regs.length →
      exec (mk r1 r2 r3) s = .next (afterReg s r3 (f a b))) ∧
    (s.regs.length ≤ r1.toNat → exec (mk r1 r2 r3) s = .next (faultedWith s op (.outOfBounds .reg .reg1 r1))) ∧
    (r1.toNat < s.regs.length → s.regs.length ≤ r2.toNat →
      exec (mk r1 r2 r3) s = .next (faultedWith s op (.outOfBounds .reg .reg2 r2))) ∧
    (r1.toNat < s.regs.length → r2.toNat < s.regs.length → s.regs.length ≤ r3.toNat →
      exec (mk r1 r2 r3) s = .next (faultedWith s op (.outOfBounds .reg .reg3 r3)))

/-- A rule `x[reg3] <- f(x[reg1], x[reg2])` that faults on a zero divisor after reg1 and reg2 are checked and before reg3 is. -/
def DivisionRule (op : Opcode) (mk : U32 → U32 → U32 → Instr) (f : S32 → S32 → S32) : Prop :=
  ∀ (s : State) (r1 r2 r3 : U32),
    (∀ a b, s.regs[r1.toNat]? = some a → s.regs[r2.toNat]? = some b → b.toInt ≠ 0 → r3.toNat < s.regs.length →
      exec (mk r1 r2 r3) s = .next (afterReg s r3 (f a b))) ∧
    (s.regs.length ≤ r1.toNat → exec (mk r1 r2 r3) s = .next (faultedWith s op (.outOfBounds .reg .reg1 r1))) ∧
    (r1.toNat < s.regs.length → s.regs.length ≤ r2.toNat →
      exec (mk r1 r2 r3) s = .next (faultedWith s op (.outOfBounds .reg .reg2 r2))) ∧
    (∀ b, r1.toNat < s.regs.length → s.regs[r2.toNat]? = some b → b.toInt = 0 →
      exec (mk r1 r2 r3) s = .next (faultedWith s op (.divisionByZero r2))) ∧
    (∀ b, r1.toNat < s.regs.length → s.regs[r2.toNat]? = some b → b.toInt ≠ 0 → s.regs.length ≤ r3.toNat →
      exec (mk r1 r2 r3) s = .next (faultedWith s op (.outOfBounds .reg .reg3 r3)))

/-- A rule `x[reg2] <- f(x[reg1])`. -/
def TwoOperandRule (op : Opcode) (mk : U32 → U32 → Instr) (f : S32 → S32) : Prop :=
  ∀ (s : State) (r1 r2 : U32),
    (∀ a, s.regs[r1.toNat]? = some a → r2.toNat < s.regs.length → exec (mk r1 r2) s = .next (afterReg s r2 (f a))) ∧
    (s.regs.length ≤ r1.toNat → exec (mk r1 r2) s = .next (faultedWith s op (.outOfBounds .reg .reg1 r1))) ∧
    (r1.toNat < s.regs.length → s.regs.length ≤ r2.toNat →
      exec (mk r1 r2) s = .next (faultedWith s op (.outOfBounds .reg .reg2 r2)))

/-- A rule `x[reg1] <- f(x[reg1])`. -/
def InPlaceRule (op : Opcode) (mk : U32 → Instr) (f : S32 → S32) : Prop :=
  ∀ (s : State) (r1 : U32),
    (∀ a, s.regs[r1.toNat]? = some a → exec (mk r1) s = .next (afterReg s r1 (f a))) ∧
    (s.regs.length ≤ r1.toNat → exec (mk r1) s = .next (faultedWith s op (.outOfBounds .reg .reg1 r1)))

/-- A jump on the value of reg1: taken to exactly `addr` where `p` holds of it, else a fall-through. -/
def RegisterJumpRule (op : Opcode) (mk : U32 → U32 → Instr) (p : Int → Prop) : Prop :=
  ∀ (s : State) (r1 addr : U32),
    (∀ a, s.regs[r1.toNat]? = some a → p a.toInt → exec (mk r1 addr) s = .next (afterJump s addr)) ∧
    (∀ a, s.regs[r1.toNat]? = some a → ¬ p a.toInt → exec (mk r1 addr) s = .next (afterNothing s)) ∧
    (s.regs.length ≤ r1.toNat → exec (mk r1 addr) s = .next (faultedWith s op (.outOfBounds .reg .reg1 r1)))

/-- A jump on the values of reg1 and reg2. -/
def ComparisonJumpRule (op : Opcode) (mk : U32 → U32 → U32 → Instr) (p : Int → Int → Prop) : Prop :=
  ∀ (s : State) (r1 r2 addr : U32),
    (∀ a b, s.regs[r1.toNat]? = some a → s.regs[r2.toNat]? = some b → p a.toInt b.toInt →
      exec (mk r1 r2 addr) s = .next (afterJump s addr)) ∧
    (∀ a b, s.regs[r1.toNat]? = some a → s.regs[r2.toNat]? = some b → ¬ p a.toInt b.toInt →
      exec (mk r1 r2 addr) s = .next (afterNothing s)) ∧
    (s.regs.length ≤ r1.toNat → exec (mk r1 r2 addr) s = .next (faultedWith s op (.outOfBounds .reg .reg1 r1))) ∧
    (r1.toNat < s.regs.length → s.regs.length ≤ r2.toNat →
      exec (mk r1 r2 addr) s = .next (faultedWith s op (.outOfBounds .reg .reg2 r2)))

/-- Where the mathematical result `z` of two operands fits in `s32`, the register holds exactly `z`. -/
def ExactThreeOperand (mk : U32 → U32 → U32 → Instr) (z : Int → Int → Int) : Prop :=
  ∀ (s : State) (r1 r2 r3 : U32) (a b : S32), s.regs[r1.toNat]? = some a → s.regs[r2.toNat]? = some b →
    r3.toNat < s.regs.length → -2147483648 ≤ z a.toInt b.toInt → z a.toInt b.toInt ≤ 2147483647 →
    ∃ v, exec (mk r1 r2 r3) s = .next (afterReg s r3 v) ∧ v.toInt = z a.toInt b.toInt

/-- Where the mathematical result `z` of one operand fits in `s32`, the destination holds exactly `z`. -/
def ExactTwoOperand (mk : U32 → U32 → Instr) (z : Int → Int) : Prop :=
  ∀ (s : State) (r1 r2 : U32) (a : S32), s.regs[r1.toNat]? = some a → r2.toNat < s.regs.length →
    -2147483648 ≤ z a.toInt → z a.toInt ≤ 2147483647 →
    ∃ v, exec (mk r1 r2) s = .next (afterReg s r2 v) ∧ v.toInt = z a.toInt

/-- Where the mathematical result `z` of the one register fits in `s32`, it then holds exactly `z`. -/
def ExactInPlace (mk : U32 → Instr) (z : Int → Int) : Prop :=
  ∀ (s : State) (r1 : U32) (a : S32), s.regs[r1.toNat]? = some a → -2147483648 ≤ z a.toInt → z a.toInt ≤ 2147483647 →
    ∃ v, exec (mk r1) s = .next (afterReg s r1 v) ∧ v.toInt = z a.toInt

end Sys2Proof.Claims

/-! ## Encoding -/

section

open Sys2Proof Sys2Proof.Machine Sys2Proof.Claims

/-- Decoding the word of any instruction, with every operand at every value, gives the instruction back (`30_encoding.md` R82 to R86; layout and
tag numbers are decisions D1, D2). -/
def Obligations.DecodeOfEncodeIsTheInstruction : Prop := ∀ i : Instr, decode (encode i) = .ok i

/-- The word of the instruction that a word decodes to has the same tag, the same value in every slot the opcode uses, and 0 in the ignored ones
(`30_encoding.md` R82, R85; the zeros are R91's notation, assumption 19). -/
def Obligations.EncodingReproducesEveryUsedSlot : Prop :=
  ∀ (w : InstrWord) (i : Instr), decode w = .ok i →
    (encode i).extractLsb' 0 32 = w.extractLsb' 0 32 ∧
    ∀ slot, InstrWord.slot (encode i) slot = if i.opcode.role slot = .ignored then 0 else InstrWord.slot w slot

/-- The opcode map and the operand assembly, one clause per tag, bits and all (`30_encoding.md` R82, R84, R85, R86; decisions D1, D2, D6). -/
def Obligations.EachTagDecodesToItsInstruction : Prop :=
  SpelledBy 0 (fun _ _ _ _ _ => .nop) ∧
  SpelledBy 1 (fun r1 r2 r3 _ _ => .add r1 r2 r3) ∧
  SpelledBy 2 (fun r1 r2 r3 _ _ => .sub r1 r2 r3) ∧
  SpelledBy 3 (fun r1 r2 r3 _ _ => .mul r1 r2 r3) ∧
  SpelledBy 4 (fun r1 r2 r3 _ _ => .div r1 r2 r3) ∧
  SpelledBy 5 (fun r1 _ _ a _ => .store r1 a) ∧
  SpelledBy 6 (fun r1 _ _ a _ => .load r1 a) ∧
  SpelledBy 7 (fun r1 _ _ _ v => .li r1 v) ∧
  SpelledBy 8 (fun r1 _ _ _ _ => .push r1) ∧
  SpelledBy 9 (fun r1 _ _ _ _ => .pop r1) ∧
  SpelledBy 10 (fun _ _ _ a _ => .jmp a) ∧
  SpelledBy 11 (fun r1 _ _ a _ => .jz r1 a) ∧
  SpelledBy 12 (fun r1 _ _ a _ => .jnz r1 a) ∧
  SpelledBy 13 (fun r1 r2 _ _ _ => .mov r1 r2) ∧
  SpelledBy 14 (fun r1 r2 _ a _ => .je r1 r2 a) ∧
  SpelledBy 15 (fun r1 r2 _ a _ => .jne r1 r2 a) ∧
  SpelledBy 16 (fun r1 r2 r3 _ _ => .and r1 r2 r3) ∧
  SpelledBy 17 (fun r1 r2 r3 _ _ => .or r1 r2 r3) ∧
  SpelledBy 18 (fun r1 r2 r3 _ _ => .xor r1 r2 r3) ∧
  SpelledBy 19 (fun r1 r2 _ _ _ => .not r1 r2) ∧
  SpelledBy 20 (fun r1 r2 r3 _ _ => .shl r1 r2 r3) ∧
  SpelledBy 21 (fun r1 r2 r3 _ _ => .shr r1 r2 r3) ∧
  SpelledBy 22 (fun r1 r2 r3 _ _ => .cmp r1 r2 r3) ∧
  SpelledBy 23 (fun r1 r2 r3 _ _ => .test r1 r2 r3) ∧
  SpelledBy 24 (fun _ _ _ a _ => .b a) ∧
  SpelledBy 25 (fun r1 _ _ a _ => .bz r1 a) ∧
  SpelledBy 26 (fun r1 _ _ a _ => .bnz r1 a) ∧
  SpelledBy 27 (fun r1 r2 _ _ _ => .neg r1 r2) ∧
  SpelledBy 28 (fun r1 r2 _ _ _ => .abs r1 r2) ∧
  SpelledBy 29 (fun r1 r2 r3 _ _ => .mod r1 r2 r3) ∧
  SpelledBy 30 (fun r1 _ _ _ _ => .inc r1) ∧
  SpelledBy 31 (fun r1 _ _ _ _ => .dec r1) ∧
  SpelledBy 32 (fun _ _ _ _ _ => .halt)

/-- Two words of one tag that agree on every slot the opcode uses decode to one instruction, so they behave identically (`30_encoding.md`, section 4).
Where the tag stands and its number are the spec's own decisions D1, D2 (assumption 17); that the two decode to EQUAL instructions is the model's choice to drop ignored slots at
decode (assumption 19). -/
def Obligations.IgnoredSlotsDoNotMatter : Prop :=
  ∀ (w w' : InstrWord) (op : Opcode), (w.extractLsb' 0 32).toNat = op.tag → w'.extractLsb' 0 32 = w.extractLsb' 0 32 →
    (∀ slot, op.role slot ≠ .ignored → InstrWord.slot w' slot = InstrWord.slot w slot) →
    decode w' = decode w ∧ ∃ i, decode w = .ok i ∧ i.opcode = op

/-- A word is an instruction exactly if its tag is at most 32, and a Running machine whose program holds any other word is refused before it steps
(`30_encoding.md` R88, decision D3). -/
def Obligations.OnlyThirtyThreeTagsAreInstructions : Prop :=
  (∀ w : InstrWord, (∃ i, decode w = .ok i) ↔ (w.extractLsb' 0 32).toNat ≤ 32) ∧
  (∀ w : InstrWord, 33 ≤ (w.extractLsb' 0 32).toNat → decode w = .error (.unknownOpcode (w.extractLsb' 0 32))) ∧
  (∀ (s : State) (w : InstrWord), s.runState = .running → w ∈ s.cfg.program → 33 ≤ (w.extractLsb' 0 32).toNat →
    ∃ r, step s = .refused r)

/-- The worked encodings of `95_test_vectors.md` section 2.7 decode to the instructions they are the words of. -/
def Obligations.WorkedEncodingsDecode : Prop :=
  decode 0xFFFFFFFB0000000000000000000000000000000200000007#192 = .ok (.li 2 (-5)) ∧
  decode 0x000000000000000000000003000000020000000100000001#192 = .ok (.add 1 2 3) ∧
  decode 0x00000000000000040000000000000002000000010000000E#192 = .ok (.je 1 2 4) ∧
  decode 0x000000000000000700000000000000000000000000000006#192 = .ok (.load 0 7) ∧
  decode 0x000000000000000000000000000000000000000000000000#192 = .ok .nop ∧
  decode 0x000000000000000000000000000000000000000000000020#192 = .ok .halt

/-! ## One rule per instruction -/

/-- ADD, SUB, MUL (`40_arithmetic.md`, sections 1 and 2): the mathematical result modulo 2^32 in `reg3` (the wrap is decision D7, the order of the checks
D16), everything else but `pc` and the count unchanged. -/
def Obligations.AddSubMulWriteTheWrappedResult : Prop :=
  ThreeOperandRule .add .add (fun a b => BitVec.ofInt 32 (a.toInt + b.toInt)) ∧
  ThreeOperandRule .sub .sub (fun a b => BitVec.ofInt 32 (a.toInt - b.toInt)) ∧
  ThreeOperandRule .mul .mul (fun a b => BitVec.ofInt 32 (a.toInt * b.toInt))

/-- DIV, MOD (`40_arithmetic.md`, sections 1 and 2): truncating quotient and its remainder (D8, D9), DivisionByZero on a zero divisor before the
destination is checked (D16). -/
def Obligations.DivModTruncateOrFaultOnZero : Prop :=
  DivisionRule .div .div (fun a b => BitVec.ofInt 32 (a.toInt.tdiv b.toInt)) ∧
  DivisionRule .mod .mod (fun a b => BitVec.ofInt 32 (a.toInt - b.toInt * a.toInt.tdiv b.toInt))

/-- NEG, ABS (`40_arithmetic.md`, section 2): the destination is `reg2`; `-INT_MIN` and `abs(INT_MIN)` wrap (D7). -/
def Obligations.NegAbsWriteTheSecondOperand : Prop :=
  TwoOperandRule .neg .neg (fun a => BitVec.ofInt 32 (-a.toInt)) ∧
  TwoOperandRule .abs .abs (fun a => BitVec.ofInt 32 |a.toInt|)

/-- INC, DEC (`40_arithmetic.md`, section 2): one more or one less in place, wrapping (D7). -/
def Obligations.IncDecWorkInPlace : Prop :=
  InPlaceRule .inc .inc (fun a => BitVec.ofInt 32 (a.toInt + 1)) ∧
  InPlaceRule .dec .dec (fun a => BitVec.ofInt 32 (a.toInt - 1))

/-- AND, OR, XOR, TEST (`41_bitwise.md`, section 2), each with its tag. Tag numbers and layout are the spec's own decisions D1, D2, the order of the checks is D16. -/
def Obligations.AndOrXorTestCombineBits : Prop :=
  (SpelledBy 16 (fun r1 r2 r3 _ _ => .and r1 r2 r3) ∧ ThreeOperandRule .and .and (fun a b => a &&& b)) ∧
  (SpelledBy 17 (fun r1 r2 r3 _ _ => .or r1 r2 r3) ∧ ThreeOperandRule .or .or (fun a b => a ||| b)) ∧
  (SpelledBy 18 (fun r1 r2 r3 _ _ => .xor r1 r2 r3) ∧ ThreeOperandRule .xor .xor (fun a b => a ^^^ b)) ∧
  (SpelledBy 23 (fun r1 r2 r3 _ _ => .test r1 r2 r3) ∧ ThreeOperandRule .test .test (fun a b => a &&& b))

/-- NOT (`41_bitwise.md`, section 2), with its tag (decisions D1, D2): the complement, which is `wrap32(-x - 1)`, in `reg2`; the order of the checks is decision D16. -/
def Obligations.NotComplementsIntoTheSecondOperand : Prop :=
  SpelledBy 19 (fun r1 r2 _ _ _ => .not r1 r2) ∧ TwoOperandRule .not .not (fun a => ~~~a) ∧
  ∀ a : S32, ~~~a = BitVec.ofInt 32 (-a.toInt - 1)

/-- CMP (`41_bitwise.md`, section 2): the wrapped difference (D7), which is 0 exactly when the operands are equal. -/
def Obligations.CmpWritesTheDifference : Prop :=
  ThreeOperandRule .cmp .cmp (fun a b => BitVec.ofInt 32 (a.toInt - b.toInt)) ∧
  ∀ (s : State) (r1 r2 r3 : U32) (a b : S32), s.regs[r1.toNat]? = some a → s.regs[r2.toNat]? = some b → r3.toNat < s.regs.length →
    ∃ v, exec (.cmp r1 r2 r3) s = .next (afterReg s r3 v) ∧ (v.toInt = 0 ↔ a.toInt = b.toInt)

/-- SHL, SHR with a count 0 to 31 (`41_bitwise.md`, sections 1 and 2): `wrap32(a * 2^c)` and `floor(a / 2^c)` (the arithmetic right shift is decision D10),
and the bounds checks for any count. -/
def Obligations.ShiftsByCountsInRange : Prop :=
  (∀ (s : State) (r1 r2 r3 : U32) (a c : S32), s.regs[r1.toNat]? = some a → s.regs[r2.toNat]? = some c → r3.toNat < s.regs.length →
    0 ≤ c.toInt → c.toInt ≤ 31 →
    exec (.shl r1 r2 r3) s = .next (afterReg s r3 (BitVec.ofInt 32 (a.toInt * 2 ^ c.toInt.toNat))) ∧
    ∃ v, exec (.shr r1 r2 r3) s = .next (afterReg s r3 v) ∧ v.toInt * 2 ^ c.toInt.toNat ≤ a.toInt ∧
      a.toInt < (v.toInt + 1) * 2 ^ c.toInt.toNat) ∧
  (∀ (s : State) (r1 r2 r3 : U32),
    (s.regs.length ≤ r1.toNat →
      exec (.shl r1 r2 r3) s = .next (faultedWith s .shl (.outOfBounds .reg .reg1 r1)) ∧
      exec (.shr r1 r2 r3) s = .next (faultedWith s .shr (.outOfBounds .reg .reg1 r1))) ∧
    (r1.toNat < s.regs.length → s.regs.length ≤ r2.toNat →
      exec (.shl r1 r2 r3) s = .next (faultedWith s .shl (.outOfBounds .reg .reg2 r2)) ∧
      exec (.shr r1 r2 r3) s = .next (faultedWith s .shr (.outOfBounds .reg .reg2 r2))) ∧
    (r1.toNat < s.regs.length → r2.toNat < s.regs.length → s.regs.length ≤ r3.toNat →
      exec (.shl r1 r2 r3) s = .next (faultedWith s .shl (.outOfBounds .reg .reg3 r3)) ∧
      exec (.shr r1 r2 r3) s = .next (faultedWith s .shr (.outOfBounds .reg .reg3 r3))))

/-- SHL, SHR with a count outside 0 to 31 (`41_bitwise.md`, section 1; `93_implementation_defined.md` U1; decision D11; assumption 3): no fault; a machine with the
default `mod32` shifts by the low five bits of the count, any other machine writes whatever its shifter answers and changes nothing else. -/
def Obligations.ShiftsByCountsOutOfRange : Prop :=
  ∀ (s : State) (r1 r2 r3 : U32) (a c : S32), s.regs[r1.toNat]? = some a → s.regs[r2.toNat]? = some c → r3.toNat < s.regs.length →
    c.toInt < 0 ∨ 32 ≤ c.toInt →
    (s.cfg.shiftOor = .mod32 →
      exec (.shl r1 r2 r3) s = .next (afterReg s r3 (BitVec.ofInt 32 (a.toInt * 2 ^ (c.toNat % 32)))) ∧
      ∃ v, exec (.shr r1 r2 r3) s = .next (afterReg s r3 v) ∧ v.toInt * 2 ^ (c.toNat % 32) ≤ a.toInt ∧
        a.toInt < (v.toInt + 1) * 2 ^ (c.toNat % 32)) ∧
    (s.cfg.shiftOor = .free →
      exec (.shl r1 r2 r3) s = .next (afterReg s r3 (Config.freeShift .shl a c)) ∧
      exec (.shr r1 r2 r3) s = .next (afterReg s r3 (Config.freeShift .shr a c)))

/-- LOAD (`42_data_movement.md`, section on LOAD; the address is checked before the register by decision D16). -/
def Obligations.LoadCopiesTheWord : Prop :=
  ∀ (s : State) (r1 addr : U32),
    (addr.toNat < s.cfg.memorySize → r1.toNat < s.regs.length →
      exec (.load r1 addr) s = .next (afterReg s r1 (Memory.read addr.toNat s.mem))) ∧
    (s.cfg.memorySize ≤ addr.toNat → exec (.load r1 addr) s = .next (faultedWith s .load (.outOfBounds .mem .addr addr))) ∧
    (addr.toNat < s.cfg.memorySize → s.regs.length ≤ r1.toNat →
      exec (.load r1 addr) s = .next (faultedWith s .load (.outOfBounds .reg .reg1 r1)))

/-- STORE (`42_data_movement.md`, rule of STORE), with its tag (decisions D1, D2): exactly the word at `addr` changes; `sp` and the registers stay; the register is checked before the
address (decision D16). -/
def Obligations.StoreWritesOneWord : Prop :=
  SpelledBy 5 (fun r1 _ _ a _ => .store r1 a) ∧
  ∀ (s : State) (r1 addr : U32),
    (∀ a, s.regs[r1.toNat]? = some a → addr.toNat < s.cfg.memorySize → Memory.wf s.mem = true →
      ∃ m, exec (.store r1 addr) s = .next { afterNothing s with mem := m } ∧ Memory.read addr.toNat m = a ∧
        ∀ b, b ≠ addr.toNat → Memory.read b m = Memory.read b s.mem) ∧
    (s.regs.length ≤ r1.toNat → exec (.store r1 addr) s = .next (faultedWith s .store (.outOfBounds .reg .reg1 r1))) ∧
    (r1.toNat < s.regs.length → s.cfg.memorySize ≤ addr.toNat →
      exec (.store r1 addr) s = .next (faultedWith s .store (.outOfBounds .mem .addr addr)))

/-- LI (`42_data_movement.md`, rule of LI), with its tag (decisions D1, D2): the whole 32-bit field, read as two's complement (decision D6). -/
def Obligations.LiLoadsTheImmediate : Prop :=
  SpelledBy 7 (fun r1 _ _ _ v => .li r1 v) ∧
  ∀ (s : State) (r1 : U32) (v : S32),
    (r1.toNat < s.regs.length → exec (.li r1 v) s = .next (afterReg s r1 v)) ∧
    (s.regs.length ≤ r1.toNat → exec (.li r1 v) s = .next (faultedWith s .li (.outOfBounds .reg .reg1 r1)))

/-- MOV (`42_data_movement.md`, section on MOV): `reg1` is the destination, `reg2` the source, which is checked first (decision D16). -/
def Obligations.MovCopiesTheSecondOperandToTheFirst : Prop :=
  ∀ (s : State) (r1 r2 : U32),
    (∀ a, s.regs[r2.toNat]? = some a → r1.toNat < s.regs.length → exec (.mov r1 r2) s = .next (afterReg s r1 a)) ∧
    (s.regs.length ≤ r2.toNat → exec (.mov r1 r2) s = .next (faultedWith s .mov (.outOfBounds .reg .reg2 r2))) ∧
    (r2.toNat < s.regs.length → s.regs.length ≤ r1.toNat →
      exec (.mov r1 r2) s = .next (faultedWith s .mov (.outOfBounds .reg .reg1 r1)))

/-- PUSH (`42_data_movement.md`, rule of PUSH), with its tag (decisions D1, D2): the word at `sp` is written, then `sp` is one less; the register is checked before the stack (decision D16). The
premise `sp < MEMORY_SIZE` is the invariant `State.Inv.spInMemory`. -/
def Obligations.PushWritesThenDecrements : Prop :=
  SpelledBy 8 (fun r1 _ _ _ _ => .push r1) ∧
  ∀ (s : State) (r1 : U32),
    (∀ a, s.regs[r1.toNat]? = some a → 0 < s.sp.toNat → s.sp.toNat < s.cfg.memorySize → Memory.wf s.mem = true →
      ∃ m q, exec (.push r1) s = .next { afterNothing s with mem := m, sp := q } ∧ q.toNat = s.sp.toNat - 1 ∧
        Memory.read s.sp.toNat m = a ∧ ∀ b, b ≠ s.sp.toNat → Memory.read b m = Memory.read b s.mem) ∧
    (s.regs.length ≤ r1.toNat → exec (.push r1) s = .next (faultedWith s .push (.outOfBounds .reg .reg1 r1))) ∧
    (r1.toNat < s.regs.length → s.sp.toNat = 0 → exec (.push r1) s = .next (faultedWith s .push (.stackOverflow 0)))

/-- POP (`42_data_movement.md`, section on POP): `sp` is one more, then the word there is copied; the popped cell keeps its value; the empty stack is checked before
the destination (decision D16), and a bad destination leaves `sp` alone (D15). -/
def Obligations.PopIncrementsThenReads : Prop :=
  ∀ (s : State) (r1 : U32),
    (s.sp.toNat + 1 < s.cfg.memorySize → r1.toNat < s.regs.length →
      exec (.pop r1) s = .next { afterReg s r1 (Memory.read (s.sp.toNat + 1) s.mem) with sp := s.sp + 1 }) ∧
    (1 ≤ s.cfg.memorySize → s.sp.toNat = s.cfg.memorySize - 1 → exec (.pop r1) s = .next (faultedWith s .pop (.stackUnderflow s.sp))) ∧
    (s.sp.toNat + 1 < s.cfg.memorySize → s.regs.length ≤ r1.toNat →
      exec (.pop r1) s = .next (faultedWith s .pop (.outOfBounds .reg .reg1 r1)))

/-- JMP, B (`43_control_flow.md`, section 2), with their tags (decisions D1, D2): always to exactly `addr`, whatever it is, and never a fault. -/
def Obligations.UnconditionalJumpsRedirect : Prop :=
  (SpelledBy 10 (fun _ _ _ a _ => .jmp a) ∧ ∀ (s : State) (a : U32), exec (.jmp a) s = .next (afterJump s a)) ∧
  (SpelledBy 24 (fun _ _ _ a _ => .b a) ∧ ∀ (s : State) (a : U32), exec (.b a) s = .next (afterJump s a))

/-- JZ, BZ, JNZ, BNZ (`43_control_flow.md`, section 2), with their tags (decisions D1, D2); the register is checked whether or not the jump would be taken. -/
def Obligations.ZeroTestJumps : Prop :=
  (SpelledBy 11 (fun r1 _ _ a _ => .jz r1 a) ∧ RegisterJumpRule .jz .jz (fun x => x = 0)) ∧
  (SpelledBy 25 (fun r1 _ _ a _ => .bz r1 a) ∧ RegisterJumpRule .bz .bz (fun x => x = 0)) ∧
  (SpelledBy 12 (fun r1 _ _ a _ => .jnz r1 a) ∧ RegisterJumpRule .jnz .jnz (fun x => x ≠ 0)) ∧
  (SpelledBy 26 (fun r1 _ _ a _ => .bnz r1 a) ∧ RegisterJumpRule .bnz .bnz (fun x => x ≠ 0))

/-- JE, JNE (`43_control_flow.md`, section 2), with their tags (decisions D1, D2): a taken jump ends at exactly `addr` (decision D12); the order of the checks is decision D16. -/
def Obligations.EqualityJumps : Prop :=
  (SpelledBy 14 (fun r1 r2 _ a _ => .je r1 r2 a) ∧ ComparisonJumpRule .je .je (fun x y => x = y)) ∧
  (SpelledBy 15 (fun r1 r2 _ a _ => .jne r1 r2 a) ∧ ComparisonJumpRule .jne .jne (fun x y => x ≠ y))

/-- NOP (`44_misc.md`, rule of NOP), with its tag (decisions D1, D2): nothing but `pc` and the count changes, whatever the slots hold. -/
def Obligations.NopOnlyAdvances : Prop :=
  SpelledBy 0 (fun _ _ _ _ _ => .nop) ∧ ∀ s : State, exec .nop s = .next (afterNothing s)

/-- HALT (`44_misc.md`, rule of HALT), with its tag (decisions D1, D2): Halted and nothing else; it is not reached once the budget is used up; nothing resumes the run. -/
def Obligations.HaltEndsTheRunInPlace : Prop :=
  SpelledBy 32 (fun _ _ _ _ _ => .halt) ∧
  (∀ s : State, exec .halt s = .next { s with runState := .halted }) ∧
  (∀ (s : State) (w : InstrWord), s.runState = .running → bootRefusal s = none → s.cfg.program[s.pc.toNat]? = some w → decode w = .ok .halt →
    s.executedCount.toNat < s.cfg.budget.toNat → step s = .next { s with runState := .halted }) ∧
  (∀ (s : State) (w : InstrWord), s.runState = .running → bootRefusal s = none → s.cfg.program[s.pc.toNat]? = some w → decode w = .ok .halt →
    s.executedCount = s.cfg.budget → ∃ t, step s = .next t ∧ t.runState = .faulted ∧ t.fault.map (·.cause) = some .budgetExceeded) ∧
  (∀ s : State, ¬ ∃ t, step { s with runState := .halted } = .next t)

/-- B behaves as JMP, BZ as JZ, BNZ as JNZ; CMP computes what SUB computes and TEST what AND computes (`30_encoding.md`, section 4, on the decoder and dispatch). The fault records
differ, so the register operands are in range. -/
def Obligations.SecondTagsBehaveAlike : Prop :=
  ∀ (s : State),
    (∀ a : U32, exec (.b a) s = exec (.jmp a) s) ∧
    (∀ r a : U32, r.toNat < s.regs.length → exec (.bz r a) s = exec (.jz r a) s ∧ exec (.bnz r a) s = exec (.jnz r a) s) ∧
    (∀ r1 r2 r3 : U32, r1.toNat < s.regs.length → r2.toNat < s.regs.length → r3.toNat < s.regs.length →
      exec (.cmp r1 r2 r3) s = exec (.sub r1 r2 r3) s ∧ exec (.test r1 r2 r3) s = exec (.and r1 r2 r3) s)

/-! ## Laws of the results -/

/-- Wherever the mathematical result lies in `INT_MIN .. INT_MAX`, ADD, SUB, MUL, CMP, NEG, ABS, INC and DEC leave exactly that number (`40_arithmetic.md`, section 1, the
overflow law; the source's property T1 of `95_test_vectors.md`). -/
def Obligations.ResultsThatFitAreExact : Prop :=
  ExactThreeOperand .add (fun x y => x + y) ∧ ExactThreeOperand .sub (fun x y => x - y) ∧ ExactThreeOperand .mul (fun x y => x * y) ∧
  ExactThreeOperand .cmp (fun x y => x - y) ∧ ExactTwoOperand .neg (fun x => -x) ∧ ExactTwoOperand .abs (fun x => |x|) ∧
  ExactInPlace .inc (fun x => x + 1) ∧ ExactInPlace .dec (fun x => x - 1)

/-- The division law (`40_arithmetic.md`, section 1; decisions D8, D9): DIV and MOD of one pair of operands give `q` and `r` with `q * b + r = a` (but for `INT_MIN / -1`, which gives
`INT_MIN` and 0), `|r| < |b|`, and `r` is 0 or has the sign of `a`. -/
def Obligations.DivAndModFormADivision : Prop :=
  ∀ (s : State) (r1 r2 r3 : U32) (a b : S32), s.regs[r1.toNat]? = some a → s.regs[r2.toNat]? = some b → b.toInt ≠ 0 → r3.toNat < s.regs.length →
    ∃ q r, exec (.div r1 r2 r3) s = .next (afterReg s r3 q) ∧ exec (.mod r1 r2 r3) s = .next (afterReg s r3 r) ∧
      (¬ (a.toInt = -2147483648 ∧ b.toInt = -1) → q.toInt * b.toInt + r.toInt = a.toInt) ∧
      (a.toInt = -2147483648 ∧ b.toInt = -1 → q.toInt = -2147483648 ∧ r.toInt = 0) ∧
      |r.toInt| < |b.toInt| ∧ (0 ≤ a.toInt → 0 ≤ r.toInt) ∧ (a.toInt ≤ 0 → r.toInt ≤ 0)

/-- PUSH then POP of one register gives back its value and the stack pointer, and changes memory at most at the old `mem[sp]` (`20_memory.md`, section 2, consequence (f)). -/
def Obligations.PushThenPopRoundTrips : Prop :=
  ∀ (s : State) (r : U32) (a : S32), Memory.wf s.mem = true → s.regs[r.toNat]? = some a → 0 < s.sp.toNat → s.sp.toNat < s.cfg.memorySize →
    ∃ t u, exec (.push r) s = .next t ∧ exec (.pop r) t = .next u ∧ u.regs = s.regs ∧ u.sp = s.sp ∧
      ∀ b, b ≠ s.sp.toNat → Memory.read b u.mem = Memory.read b s.mem

/-! ## Frames: what no instruction changes -/

/-- Every register but the destination keeps its value, and the bank keeps its length, whatever next state an instruction answers (`30_encoding.md`, section 2, the
table of roles; `10_state.md`, section 1). -/
def Obligations.RegistersChangeOnlyAtTheDestination : Prop :=
  ∀ (i : Instr) (s t : State), exec i s = .next t →
    t.regs.length = s.regs.length ∧ ∀ j : Nat, (∀ d, destination i = some d → d.toNat ≠ j) → t.regs[j]? = s.regs[j]?

/-- Every word of memory reads as before but the one STORE or PUSH stores to, at the address its rule gives (`20_memory.md`, sections 2 and 3). -/
def Obligations.MemoryChangesOnlyWhereStored : Prop :=
  ∀ (i : Instr) (s t : State), exec i s = .next t → ∀ a : Nat, storedAddress s i ≠ some a → Memory.read a t.mem = Memory.read a s.mem

/-- Only PUSH and POP move `sp`, by one, and never past either end of memory (`10_state.md`, section 2). -/
def Obligations.OnlyPushAndPopMoveTheStackPointer : Prop :=
  ∀ (i : Instr) (s t : State), s.Inv → exec i s = .next t →
    t.sp = s.sp ∨ ((∃ r, i = .push r) ∧ t.sp.toNat + 1 = s.sp.toNat) ∨
      ((∃ r, i = .pop r) ∧ t.sp.toNat = s.sp.toNat + 1 ∧ t.sp.toNat < s.cfg.memorySize)

/-- The lengths of the bank and of memory are fixed by reset: no step grows or shrinks them (`70_reset_and_hazards.md` R241); nor does a step change any of the configuration. -/
def Obligations.CapacitiesAndConfigurationAreFixed : Prop :=
  ∀ (s t : State), step s = .next t → t.regs.length = s.regs.length ∧ t.cfg.memorySize = s.cfg.memorySize ∧ t.cfg = s.cfg

/-- A jump changes nothing but `pc` and the count: taken, `pc` is exactly `addr`; not taken, it is the next index; the count grows by 1 in both (`43_control_flow.md` R160). The other
outcome of a jump, a bad register operand, is excluded by `firstFault`. -/
def Obligations.JumpsChangeOnlyPcAndCount : Prop :=
  ∀ (i : Instr) (addr : U32) (s : State), jumpTarget i = some addr → firstFault s i = none →
    (jumpTaken s i → exec i s = .next { s with pc := addr, executedCount := s.executedCount + 1 }) ∧
    (¬ jumpTaken s i → exec i s = .next { s with pc := s.pc + 1, executedCount := s.executedCount + 1 })

/-- The writes of an instruction to `x`, `mem` and `sp` depend on the State Store, the capacities and the shifter alone: no instruction reads `pc`, the count, the budget, the run
state, the fault record or the program store (`10_state.md`, sections 3 to 5; `20_memory.md`, section 1, decision D26). -/
def Obligations.EffectsDependOnTheStateStoreAlone : Prop :=
  ∀ (i : Instr) (s s' t : State), s'.regs = s.regs → s'.mem = s.mem → s'.sp = s.sp → s'.cfg.memorySize = s.cfg.memorySize →
    s'.cfg.shiftOor = s.cfg.shiftOor → exec i s = .next t →
    ∃ t', exec i s' = .next t' ∧ t'.regs = t.regs ∧ t'.mem = t.mem ∧ t'.sp = t.sp

/-! ## The step -/

/-- A Running machine with budget left whose word at `pc` decodes to `i` runs exactly `i` (`45_execution_engine.md`, section 1). -/
def Obligations.StepRunsTheDecodedInstruction : Prop :=
  ∀ (s : State) (w : InstrWord) (i : Instr), s.runState = .running → bootRefusal s = none → s.executedCount.toNat < s.cfg.budget.toNat →
    s.cfg.program[s.pc.toNat]? = some w → decode w = .ok i → step s = exec i s

/-- BudgetExceeded is raised by the step, before the end-of-program check and before any fetch, and by no instruction; under the invariant it fires exactly when the count equals the budget
(`60_exceptions.md`, section 1, rule of BudgetExceeded; that it comes before the end-of-program check is decision D13). -/
def Obligations.BudgetExceededIsRaisedByTheStep : Prop :=
  (∀ s : State, s.runState = .running → bootRefusal s = none → s.cfg.budget.toNat ≤ s.executedCount.toNat →
    step s = .next { s with runState := .faulted, fault := some { pc := s.pc, opcode := none, detail := .budgetExceeded s.executedCount } }) ∧
  (∀ s : State, s.Inv → s.runState = .running →
    ((∃ t r, step s = .next t ∧ t.fault = some r ∧ r.cause = .budgetExceeded) ↔ s.executedCount = s.cfg.budget)) ∧
  (∀ s t : State, s.Inv → step s = .next t →
    t.executedCount.toNat = s.executedCount.toNat ∨ t.executedCount.toNat = s.executedCount.toNat + 1)

/-- A Running machine with budget left whose `pc` is at or beyond the program's end halts, with nothing else changed (`45_execution_engine.md`, section 1, item 2; the order of the two checks is decision D13). -/
def Obligations.EndOfProgramHalts : Prop :=
  ∀ s : State, s.runState = .running → bootRefusal s = none → s.executedCount.toNat < s.cfg.budget.toNat →
    s.cfg.program.length ≤ s.pc.toNat → step s = .next { s with runState := .halted }

/-- Completing the step, by outcome (`45_execution_engine.md`, section 1; that a fault leaves everything else alone is decision D15): a fault changes only `run_state` and `fault`; HALT only `run_state`; a redirect counts one and sets `pc` to the instruction's `addr`; any other
instruction commits its writes to `x`, `mem`, `sp`, counts one and adds 1 to `pc`. -/
def Obligations.InstructionsCompleteByOutcome : Prop :=
  ∀ (i : Instr) (s t : State), exec i s = .next t →
    (∃ d, t = { s with runState := .faulted, fault := some { pc := s.pc, opcode := some i.opcode, detail := d } }) ∨
    (i = .halt ∧ t = { s with runState := .halted }) ∨
    (∃ addr, jumpTarget i = some addr ∧ jumpTaken s i ∧ t = { s with executedCount := s.executedCount + 1, pc := addr }) ∨
    (i ≠ .halt ∧ ¬ jumpTaken s i ∧ ∃ x m p, t = { s with regs := x, mem := m, sp := p, executedCount := s.executedCount + 1, pc := s.pc + 1 })

/-- A step is defined only in Running, and there it is total: every Running state of the hardware has exactly one next state; a constructed machine is Running at index 0 with nothing executed
(`45_execution_engine.md` R190). -/
def Obligations.RunningStatesAlwaysStep : Prop :=
  (∀ s : State, s.Inv → s.runState = .running → ∃ t, step s = .next t ∧ ∀ u, step s = .next u → u = t) ∧
  (∀ s : State, s.runState ≠ .running → ¬ ∃ t, step s = .next t) ∧
  (∀ (n : Nat) (c : Config), (State.construct n c).runState = .running ∧ (State.construct n c).pc = 0 ∧ (State.construct n c).executedCount = 0)

/-- There is no way back from Faulted, and a fault record is never overwritten: a step starts only where none is written (`60_exceptions.md`, section 3). The
spec says only that no step is defined in Faulted; that `step` answers there with the stop named `stepAfterFaulted` is the model's choice (assumption 5). -/
def Obligations.FaultedIsTerminal : Prop :=
  (∀ s : State, s.runState = .faulted → step s = .fault .stepAfterFaulted) ∧
  (∀ s t : State, s.Inv → step s = .next t → s.fault = none) ∧
  (∀ (n : Nat) (c : Config), (State.construct n c).fault = none)

/-- A Running machine is refused exactly if a parameter is outside its range or the program holds a word that is no instruction (`00_scope.md`, section 4, decision D25; refusing at the step is assumption 6). -/
def Obligations.IllegalConfigurationsAreRefused : Prop :=
  ∀ s : State, s.runState = .running →
    ((∃ r, step s = .refused r) ↔
      s.regs.length = 0 ∨ 4294967296 < s.regs.length ∨ s.cfg.memorySize = 0 ∨ 4294967296 < s.cfg.memorySize ∨ s.cfg.budget = 0 ∨
        4294967295 < s.cfg.program.length ∨ ∃ w ∈ s.cfg.program, 33 ≤ (w.extractLsb' 0 32).toNat)

/-- There are exactly three ways to reach the end of a run: HALT, the end of the program, and a fault; the first two leave the State Store unchanged, and no step leads out of either end
state (`45_execution_engine.md`, section 2). That a fault changes nothing but `run_state` and the record is the spec's own decision D15 (assumption 15). -/
def Obligations.ThreeWaysToEndARun : Prop :=
  (∀ s t : State, step s = .next t → t.runState ≠ .running →
    (t = { s with runState := .halted } ∧ ∃ w, s.cfg.program[s.pc.toNat]? = some w ∧ decode w = .ok .halt) ∨
    (t = { s with runState := .halted } ∧ s.cfg.program.length ≤ s.pc.toNat) ∨
    (t.runState = .faulted ∧ ∃ r, t.fault = some r ∧ t = { s with runState := .faulted, fault := some r })) ∧
  (∀ s : State, s.Ended → ¬ ∃ t, step s = .next t)

/-- A fault is precise: the step that takes it changes only `run_state` and `fault`, and the record names the `pc` of the step (`60_exceptions.md`, section 3; the whole-instruction reading is decision D15). -/
def Obligations.FaultingStepsHaveNoOtherEffect : Prop :=
  ∀ s t : State, step s = .next t → t.runState = .faulted →
    t.regs = s.regs ∧ t.mem = s.mem ∧ t.sp = s.sp ∧ t.pc = s.pc ∧ t.executedCount = s.executedCount ∧ t.cfg = s.cfg ∧
      ∃ r, t.fault = some r ∧ r.pc = s.pc

/-- The faults each opcode can raise and their priority (`60_exceptions.md`, sections 1 and 2; the order is decision D16): the first failing check of the instruction's row is the fault reported, and an instruction whose
checks all pass completes without a fault. -/
def Obligations.FirstFailingCheckIsReported : Prop :=
  ∀ (i : Instr) (s : State), s.Inv → s.runState = .running →
    (∀ d, firstFault s i = some d → exec i s = .next (faultedWith s i.opcode d)) ∧
    (firstFault s i = none → ∃ t, exec i s = .next t ∧ t.runState ≠ .faulted ∧ t.fault = s.fault)

/-- The counters never wrap: a step that goes on adds exactly 1 to the count and either adds exactly 1 to `pc` or sets it to the target of the jump that was taken (`10_state.md`, sections 3 and 4). -/
def Obligations.CountersNeverWrap : Prop :=
  ∀ s t : State, s.Inv → step s = .next t → t.runState = .running →
    t.executedCount.toNat = s.executedCount.toNat + 1 ∧
    (t.pc.toNat = s.pc.toNat + 1 ∨
      ∃ w i, s.cfg.program[s.pc.toNat]? = some w ∧ decode w = .ok i ∧ jumpTaken s i ∧ jumpTarget i = some t.pc)

/-! ## Construction, the invariant, the run, the host -/

/-- Construction: both stores zero at the given lengths, `sp` at the highest address, the engine at index 0 with nothing executed, Running, no fault (`70_reset_and_hazards.md`, section 1; `mem[0]` is decision D18, no fault is D19). -/
def Obligations.ConstructionGivesTheResetState : Prop :=
  ∀ (n : Nat) (c : Config), 1 ≤ n → n ≤ 4294967296 → 1 ≤ c.memorySize → c.memorySize ≤ 4294967296 →
    (State.construct n c).cfg = c ∧ (State.construct n c).regs.length = n ∧ (∀ j : Nat, j < n → (State.construct n c).regs[j]? = some 0) ∧
    (∀ a : Nat, a < c.memorySize → Memory.read a (State.construct n c).mem = 0) ∧ (State.construct n c).sp.toNat = c.memorySize - 1 ∧
    (State.construct n c).pc = 0 ∧ (State.construct n c).executedCount = 0 ∧ (State.construct n c).runState = .running ∧
    (State.construct n c).fault = none

/-- Every machine that a legal configuration constructs meets the invariant, `State.reset` among them (`10_state.md`, sections 2, 4 and 8). -/
def Obligations.ConstructionMeetsTheInvariant : Prop :=
  (∀ (n : Nat) (c : Config), bootRefusal (State.construct n c) = none → (State.construct n c).Inv) ∧ State.reset.Inv

/-- Every step keeps the invariant: a legal configuration, a memory in canonical form with no cell outside it, `0 <= sp <= MEMORY_SIZE - 1`, `executed_count <= BUDGET`, and a fault record exactly in Faulted
(`10_state.md`, sections 2 and 4). -/
def Obligations.EveryStepKeepsTheInvariant : Prop :=
  ∀ s t : State, s.Inv → step s = .next t → t.Inv

/-- Every run ends: from any Running state of the hardware within the budget left plus one steps, and from construction within `BUDGET + 1` steps, in a state that meets the invariant
(`45_execution_engine.md`, section 2, rule of a run; `10_state.md`, section 4). -/
def Obligations.EveryRunEndsWithinTheBudget : Prop :=
  (∀ s : State, s.Inv → s.runState = .running →
    ∃ t, run (s.cfg.budget.toNat - s.executedCount.toNat + 1) s = .next t ∧ t.Ended ∧ t.Inv) ∧
  (∀ (n : Nat) (c : Config), bootRefusal (State.construct n c) = none →
    ∃ t, run (c.budget.toNat + 1) (State.construct n c) = .next t ∧ t.Ended ∧ t.executedCount.toNat ≤ c.budget.toNat)

/-- The snapshot (`45_execution_engine.md`, section 3, output; decision D23: for Halted only): the registers in index order and the words from `sp + 1` to the top in increasing address order; a push puts its value
first in that list and a pop takes the first away. -/
def Obligations.SnapshotListsTheLiveStack : Prop :=
  (∀ s : State, s.runState = .halted → ∃ l, snapshot? s = some { registers := s.regs, stack := l } ∧
    l.length = s.cfg.memorySize - 1 - s.sp.toNat ∧
    ∀ k : Nat, s.sp.toNat + 1 + k < s.cfg.memorySize → l[k]? = some (Memory.read (s.sp.toNat + 1 + k) s.mem)) ∧
  (∀ s : State, s.runState ≠ .halted → snapshot? s = none) ∧
  (∀ (s t : State) (r : U32) (a : S32), s.Inv → s.regs[r.toNat]? = some a → 0 < s.sp.toNat → exec (.push r) s = .next t →
    liveStack t = a :: liveStack s) ∧
  (∀ (s t : State) (r : U32), s.Inv → r.toNat < s.regs.length → s.sp.toNat + 1 < s.cfg.memorySize → exec (.pop r) s = .next t →
    liveStack s = Memory.read (s.sp.toNat + 1) s.mem :: liveStack t)

end
end

