-- ==== Sys2Proof/Laws/State.lean ====
section
/-! SUPPORT. One lemma per field of the state per named update, so that no proof unfolds a record update. -/

namespace Sys2Proof.Machine

variable (s : State)

/-! ### `State.setReg` -/

@[simp] theorem State.setReg_cfg (i : U32) (v : S32) : (s.setReg i v).cfg = s.cfg := rfl
@[simp] theorem State.setReg_regs (i : U32) (v : S32) : (s.setReg i v).regs = s.regs.set i.toNat v := rfl
@[simp] theorem State.setReg_mem (i : U32) (v : S32) : (s.setReg i v).mem = s.mem := rfl
@[simp] theorem State.setReg_sp (i : U32) (v : S32) : (s.setReg i v).sp = s.sp := rfl
@[simp] theorem State.setReg_pc (i : U32) (v : S32) : (s.setReg i v).pc = s.pc := rfl
@[simp] theorem State.setReg_executedCount (i : U32) (v : S32) : (s.setReg i v).executedCount = s.executedCount := rfl
@[simp] theorem State.setReg_runState (i : U32) (v : S32) : (s.setReg i v).runState = s.runState := rfl
@[simp] theorem State.setReg_fault (i : U32) (v : S32) : (s.setReg i v).fault = s.fault := rfl

/-! ### `State.setMem` -/

@[simp] theorem State.setMem_cfg (a : U32) (v : S32) : (s.setMem a v).cfg = s.cfg := rfl
@[simp] theorem State.setMem_regs (a : U32) (v : S32) : (s.setMem a v).regs = s.regs := rfl
@[simp] theorem State.setMem_mem (a : U32) (v : S32) : (s.setMem a v).mem = Memory.write a.toNat v s.mem := rfl
@[simp] theorem State.setMem_sp (a : U32) (v : S32) : (s.setMem a v).sp = s.sp := rfl
@[simp] theorem State.setMem_pc (a : U32) (v : S32) : (s.setMem a v).pc = s.pc := rfl
@[simp] theorem State.setMem_executedCount (a : U32) (v : S32) : (s.setMem a v).executedCount = s.executedCount := rfl
@[simp] theorem State.setMem_runState (a : U32) (v : S32) : (s.setMem a v).runState = s.runState := rfl
@[simp] theorem State.setMem_fault (a : U32) (v : S32) : (s.setMem a v).fault = s.fault := rfl

/-! ### `State.setSp` -/

@[simp] theorem State.setSp_cfg (v : U32) : (s.setSp v).cfg = s.cfg := rfl
@[simp] theorem State.setSp_regs (v : U32) : (s.setSp v).regs = s.regs := rfl
@[simp] theorem State.setSp_mem (v : U32) : (s.setSp v).mem = s.mem := rfl
@[simp] theorem State.setSp_sp (v : U32) : (s.setSp v).sp = v := rfl
@[simp] theorem State.setSp_pc (v : U32) : (s.setSp v).pc = s.pc := rfl
@[simp] theorem State.setSp_executedCount (v : U32) : (s.setSp v).executedCount = s.executedCount := rfl
@[simp] theorem State.setSp_runState (v : U32) : (s.setSp v).runState = s.runState := rfl
@[simp] theorem State.setSp_fault (v : U32) : (s.setSp v).fault = s.fault := rfl

/-! ### `State.advance` -/

@[simp] theorem State.advance_cfg : (s.advance).cfg = s.cfg := rfl
@[simp] theorem State.advance_regs : (s.advance).regs = s.regs := rfl
@[simp] theorem State.advance_mem : (s.advance).mem = s.mem := rfl
@[simp] theorem State.advance_sp : (s.advance).sp = s.sp := rfl
@[simp] theorem State.advance_pc : (s.advance).pc = s.pc + 1 := rfl
@[simp] theorem State.advance_executedCount : (s.advance).executedCount = s.executedCount + 1 := rfl
@[simp] theorem State.advance_runState : (s.advance).runState = s.runState := rfl
@[simp] theorem State.advance_fault : (s.advance).fault = s.fault := rfl

/-! ### `State.redirect` -/

@[simp] theorem State.redirect_cfg (addr : U32) : (s.redirect addr).cfg = s.cfg := rfl
@[simp] theorem State.redirect_regs (addr : U32) : (s.redirect addr).regs = s.regs := rfl
@[simp] theorem State.redirect_mem (addr : U32) : (s.redirect addr).mem = s.mem := rfl
@[simp] theorem State.redirect_sp (addr : U32) : (s.redirect addr).sp = s.sp := rfl
@[simp] theorem State.redirect_pc (addr : U32) : (s.redirect addr).pc = addr := rfl
@[simp] theorem State.redirect_executedCount (addr : U32) : (s.redirect addr).executedCount = s.executedCount + 1 := rfl
@[simp] theorem State.redirect_runState (addr : U32) : (s.redirect addr).runState = s.runState := rfl
@[simp] theorem State.redirect_fault (addr : U32) : (s.redirect addr).fault = s.fault := rfl

/-! ### `State.halt` -/

@[simp] theorem State.halt_cfg : (s.halt).cfg = s.cfg := rfl
@[simp] theorem State.halt_regs : (s.halt).regs = s.regs := rfl
@[simp] theorem State.halt_mem : (s.halt).mem = s.mem := rfl
@[simp] theorem State.halt_sp : (s.halt).sp = s.sp := rfl
@[simp] theorem State.halt_pc : (s.halt).pc = s.pc := rfl
@[simp] theorem State.halt_executedCount : (s.halt).executedCount = s.executedCount := rfl
@[simp] theorem State.halt_runState : (s.halt).runState = .halted := rfl
@[simp] theorem State.halt_fault : (s.halt).fault = s.fault := rfl

/-! ### `State.takeFault` -/

@[simp] theorem State.takeFault_cfg (op : Option Opcode) (d : FaultDetail) : (s.takeFault op d).cfg = s.cfg := rfl
@[simp] theorem State.takeFault_regs (op : Option Opcode) (d : FaultDetail) : (s.takeFault op d).regs = s.regs := rfl
@[simp] theorem State.takeFault_mem (op : Option Opcode) (d : FaultDetail) : (s.takeFault op d).mem = s.mem := rfl
@[simp] theorem State.takeFault_sp (op : Option Opcode) (d : FaultDetail) : (s.takeFault op d).sp = s.sp := rfl
@[simp] theorem State.takeFault_pc (op : Option Opcode) (d : FaultDetail) : (s.takeFault op d).pc = s.pc := rfl
@[simp] theorem State.takeFault_executedCount (op : Option Opcode) (d : FaultDetail) : (s.takeFault op d).executedCount = s.executedCount := rfl
@[simp] theorem State.takeFault_runState (op : Option Opcode) (d : FaultDetail) : (s.takeFault op d).runState = .faulted := rfl
@[simp] theorem State.takeFault_fault (op : Option Opcode) (d : FaultDetail) : (s.takeFault op d).fault = some { pc := s.pc, opcode := op, detail := d } := rfl

/-! ### `State.numRegisters` -/

@[simp] theorem State.setReg_numRegisters (i : U32) (v : S32) : (s.setReg i v).numRegisters = s.numRegisters := by
  simp [State.numRegisters]

/-! ### `State.construct` -/

variable (n : Nat) (c : Config)

@[simp] theorem State.construct_cfg : (State.construct n c).cfg = c := rfl
@[simp] theorem State.construct_regs : (State.construct n c).regs = List.replicate n 0 := rfl
@[simp] theorem State.construct_mem : (State.construct n c).mem = [] := rfl
@[simp] theorem State.construct_sp : (State.construct n c).sp = BitVec.ofNat 32 (c.memorySize - 1) := rfl
@[simp] theorem State.construct_pc : (State.construct n c).pc = 0 := rfl
@[simp] theorem State.construct_executedCount : (State.construct n c).executedCount = 0 := rfl
@[simp] theorem State.construct_runState : (State.construct n c).runState = .running := rfl
@[simp] theorem State.construct_fault : (State.construct n c).fault = none := rfl

end Sys2Proof.Machine
end

