-- ==== Sys2Proof/Laws/Words.lean ====
section
/-! SUPPORT. The laws of instruction words: each field of an assembled word is the field it was assembled from, and the opcode map
inverts the tag numbers. -/

namespace Sys2Proof

variable (o r1 r2 r3 a : U32) (v : S32)

/-- Which field a bit of an assembled word comes from. -/
theorem InstrWord.getLsbD_ofFields (k : Nat) :
    (InstrWord.ofFields o r1 r2 r3 a v).getLsbD k =
      if k < 32 then o.getLsbD k else if k - 32 < 32 then r1.getLsbD (k - 32)
      else if k - 32 - 32 < 32 then r2.getLsbD (k - 32 - 32) else if k - 32 - 32 - 32 < 32 then r3.getLsbD (k - 32 - 32 - 32)
      else if k - 32 - 32 - 32 - 32 < 32 then a.getLsbD (k - 32 - 32 - 32 - 32)
      else v.getLsbD (k - 32 - 32 - 32 - 32 - 32) := by
  have h : (v ++ a ++ r3 ++ r2 ++ r1 ++ o).getLsbD k = _ := BitVec.getLsbD_append
  refine h.trans ?_
  simp only [BitVec.getLsbD_append]

@[simp] theorem InstrWord.opcode_ofFields : InstrWord.opcode (InstrWord.ofFields o r1 r2 r3 a v) = o := by
  apply BitVec.eq_of_getLsbD_eq
  intro i hi
  simp [InstrWord.opcode, InstrWord.getLsbD_ofFields, hi]

@[simp] theorem InstrWord.reg1_ofFields : InstrWord.reg1 (InstrWord.ofFields o r1 r2 r3 a v) = r1 := by
  apply BitVec.eq_of_getLsbD_eq
  intro i hi
  simp only [InstrWord.reg1, BitVec.getLsbD_extractLsb', InstrWord.getLsbD_ofFields, hi, decide_true, Bool.true_and]
  repeat (first | rw [if_neg (by omega)] | rw [if_pos (by omega)])
  exact congrArg _ (by omega)

@[simp] theorem InstrWord.reg2_ofFields : InstrWord.reg2 (InstrWord.ofFields o r1 r2 r3 a v) = r2 := by
  apply BitVec.eq_of_getLsbD_eq
  intro i hi
  simp only [InstrWord.reg2, BitVec.getLsbD_extractLsb', InstrWord.getLsbD_ofFields, hi, decide_true, Bool.true_and]
  repeat (first | rw [if_neg (by omega)] | rw [if_pos (by omega)])
  exact congrArg _ (by omega)

@[simp] theorem InstrWord.reg3_ofFields : InstrWord.reg3 (InstrWord.ofFields o r1 r2 r3 a v) = r3 := by
  apply BitVec.eq_of_getLsbD_eq
  intro i hi
  simp only [InstrWord.reg3, BitVec.getLsbD_extractLsb', InstrWord.getLsbD_ofFields, hi, decide_true, Bool.true_and]
  repeat (first | rw [if_neg (by omega)] | rw [if_pos (by omega)])
  exact congrArg _ (by omega)

@[simp] theorem InstrWord.addr_ofFields : InstrWord.addr (InstrWord.ofFields o r1 r2 r3 a v) = a := by
  apply BitVec.eq_of_getLsbD_eq
  intro i hi
  simp only [InstrWord.addr, BitVec.getLsbD_extractLsb', InstrWord.getLsbD_ofFields, hi, decide_true, Bool.true_and]
  repeat (first | rw [if_neg (by omega)] | rw [if_pos (by omega)])
  exact congrArg _ (by omega)

@[simp] theorem InstrWord.imm_ofFields : InstrWord.imm (InstrWord.ofFields o r1 r2 r3 a v) = v := by
  apply BitVec.eq_of_getLsbD_eq
  intro i hi
  simp only [InstrWord.imm, BitVec.getLsbD_extractLsb', InstrWord.getLsbD_ofFields, hi, decide_true, Bool.true_and]
  repeat rw [if_neg (by omega)]
  exact congrArg _ (by omega)

/-- Every tag number is below 33. -/
theorem Opcode.tag_lt (op : Opcode) : op.tag < 33 := by
  cases op <;> decide

/-- The opcode map finds the opcode of a tag number. -/
@[simp] theorem Opcode.ofTag_tag (op : Opcode) : Opcode.ofTag? op.tag = some op := by
  cases op <;> rfl

/-- What the opcode map can answer: an opcode with that tag number, or none from 33 on. -/
theorem Opcode.ofTag_cases (n : Nat) : (∃ op : Opcode, Opcode.ofTag? n = some op ∧ op.tag = n) ∨ (Opcode.ofTag? n = none ∧ 33 ≤ n) := by
  by_cases h : n < 33
  · left
    have : ∀ k : Fin 33, ∃ op, Opcode.ofTag? k.val = some op ∧ op.tag = k.val := by
      intro k
      fin_cases k <;> exact ⟨_, rfl, rfl⟩
    exact this ⟨n, h⟩
  · right
    exact ⟨List.getElem?_eq_none (by simpa [opcodeMap] using h), by omega⟩

/-- What the decoder can answer: the instruction of the opcode whose tag the word carries, or the rejection of a tag from 33 on. -/
theorem decode_cases (w : InstrWord) :
    (∃ op : Opcode, op.tag = (InstrWord.opcode w).toNat ∧
      decode w = .ok (op.instr (InstrWord.reg1 w) (InstrWord.reg2 w) (InstrWord.reg3 w) (InstrWord.addr w) (InstrWord.imm w))) ∨
    (33 ≤ (InstrWord.opcode w).toNat ∧ decode w = .error (.unknownOpcode (InstrWord.opcode w))) := by
  rcases Opcode.ofTag_cases (InstrWord.opcode w).toNat with ⟨op, h, ht⟩ | ⟨h, hn⟩
  · exact .inl ⟨op, ht, by simp [decode, h]⟩
  · exact .inr ⟨hn, by simp [decode, h]⟩

end Sys2Proof
end

