-- ==== Sys2Proof/Laws/Engine.lean ====
section
/-! SUPPORT. What the engine around `exec` can do, said once. -/

namespace Sys2Proof.Machine

theorem capacityLegal_iff (n : Nat) : capacityLegal n = true ↔ 1 ≤ n ∧ n ≤ 4294967296 := decide_eq_true_iff

theorem budgetLegal_iff (b : U64) : budgetLegal b = true ↔ 1 ≤ b.toNat := decide_eq_true_iff

theorem programLengthLegal_iff (p : List InstrWord) : programLengthLegal p = true ↔ p.length ≤ 4294967295 := decide_eq_true_iff

theorem wordLegal_iff (w : InstrWord) : wordLegal w = true ↔ ∃ i, decode w = .ok i := by
  unfold wordLegal
  cases decode w <;> simp

theorem bootRefusal_eq_none {s : State} :
    bootRefusal s = none ↔
      capacityLegal s.numRegisters = true ∧ capacityLegal s.cfg.memorySize = true ∧ budgetLegal s.cfg.budget = true ∧
        programLengthLegal s.cfg.program = true ∧ programWordsLegal s.cfg.program = true := by
  unfold bootRefusal
  cases capacityLegal s.numRegisters <;> cases capacityLegal s.cfg.memorySize <;> cases budgetLegal s.cfg.budget <;>
    cases programLengthLegal s.cfg.program <;> cases programWordsLegal s.cfg.program <;> decide

/-- A refusal before the first step depends on the capacities and the configuration alone. -/
theorem bootRefusal_congr {s t : State} (hc : t.cfg = s.cfg) (hr : t.regs.length = s.regs.length) : bootRefusal t = bootRefusal s := by
  unfold bootRefusal State.numRegisters
  rw [hc, hr]

/-- What a step of a Running, legally configured machine can do: the budget, the end of the program, or the fetched instruction. -/
theorem runningStep_cases {s : State} (h : bootRefusal s = none) :
    (s.cfg.budget.toNat ≤ s.executedCount.toNat ∧ runningStep s = .next (s.takeFault none (.budgetExceeded s.executedCount))) ∨
    (s.executedCount.toNat < s.cfg.budget.toNat ∧ s.cfg.program.length ≤ s.pc.toNat ∧ runningStep s = .next s.halt) ∨
    (∃ w i, s.executedCount.toNat < s.cfg.budget.toNat ∧ s.cfg.program[s.pc.toNat]? = some w ∧ decode w = .ok i ∧
      runningStep s = exec i s) := by
  by_cases hb : s.cfg.budget.toNat ≤ s.executedCount.toNat
  · exact .inl ⟨hb, by simp [runningStep, budgetSpent, hb]⟩
  · have hb' : s.executedCount.toNat < s.cfg.budget.toNat := by omega
    by_cases hp : s.pc.toNat < s.cfg.program.length
    · have hw := List.getElem?_eq_getElem hp
      have hall := (bootRefusal_eq_none.1 h).2.2.2.2
      have hl : wordLegal s.cfg.program[s.pc.toNat] = true :=
        List.all_eq_true.1 hall _ (List.getElem_mem hp)
      rcases hd : decode s.cfg.program[s.pc.toNat] with e | i
      · simp [wordLegal, hd] at hl
      · exact .inr (.inr ⟨_, i, hb', hw, hd, by simp [runningStep, budgetSpent, hb, fetch?, hw, hd]⟩)
    · refine .inr (.inl ⟨hb', by omega, ?_⟩)
      simp [runningStep, budgetSpent, hb, fetch?, List.getElem?_eq_none (Nat.le_of_not_lt hp)]

theorem step_of_running {s : State} (hr : s.runState = .running) (hb : bootRefusal s = none) : step s = runningStep s := by
  simp [step, hr, hb]

/-- A step that answers a next state is a step of a Running, legally configured machine. -/
theorem step_next {s t : State} (h : step s = .next t) : s.runState = .running ∧ bootRefusal s = none ∧ runningStep s = .next t := by
  unfold step at h
  split at h
  · cases h
  · cases h
  · rename_i hr
    split at h
    · cases h
    · rename_i hb
      exact ⟨hr, hb, h⟩

end Sys2Proof.Machine
end

