-- ==== Sys2Proof/Laws/Memory.lean ====
section
/-! SUPPORT. The laws of the sparse memory: a read after a write, the canonical form is kept, and two memories in canonical form
that read alike are equal. -/

namespace Sys2Proof.Machine

@[simp] theorem Memory.read_nil (a : Nat) : Memory.read a [] = Memory.unlisted := rfl

theorem Memory.read_cons (a b : Nat) (w : S32) (m : Memory) :
    Memory.read a ((b, w) :: m) = if a = b then w else Memory.read a m := rfl

@[simp] theorem Memory.wfFrom_nil (lo : Nat) : Memory.wfFrom lo [] = true := rfl

@[simp] theorem Memory.wf_nil : Memory.wf [] = true := rfl

@[simp] theorem Memory.below_nil (n : Nat) : Memory.below n [] = true := rfl

theorem Memory.wfFrom_cons {lo a : Nat} {v : S32} {m : Memory} :
    Memory.wfFrom lo ((a, v) :: m) = true ↔ lo ≤ a ∧ v ≠ Memory.unlisted ∧ Memory.wfFrom (a + 1) m = true := by
  simp [Memory.wfFrom, and_assoc]

theorem Memory.below_cons {n a : Nat} {v : S32} {m : Memory} :
    Memory.below n ((a, v) :: m) = true ↔ a < n ∧ Memory.below n m = true := by
  simp [Memory.below]

theorem Memory.wfFrom_mono {lo lo' : Nat} (h : lo' ≤ lo) : {m : Memory} → Memory.wfFrom lo m = true → Memory.wfFrom lo' m = true
  | [], _ => rfl
  | (a, v) :: m, hm => by
    obtain ⟨h1, h2, h3⟩ := Memory.wfFrom_cons.1 hm
    exact Memory.wfFrom_cons.2 ⟨by omega, h2, h3⟩

/-- Below the first address of a canonical list nothing is listed. -/
theorem Memory.read_of_lt {lo a : Nat} (h : a < lo) : {m : Memory} → Memory.wfFrom lo m = true → Memory.read a m = Memory.unlisted
  | [], _ => rfl
  | (b, w) :: m, hm => by
    obtain ⟨h1, _, h3⟩ := Memory.wfFrom_cons.1 hm
    rw [Memory.read_cons, if_neg (by omega)]
    exact Memory.read_of_lt (by omega) h3

/-- A write leaves every other cell alone, in any list. -/
theorem Memory.read_write_other {a b : Nat} (h : b ≠ a) (v : S32) :
    (m : Memory) → Memory.read b (Memory.write a v m) = Memory.read b m
  | [] => by
    unfold Memory.write
    split <;> simp [Memory.read_cons, h]
  | (c, w) :: m => by
    have ih := Memory.read_write_other h v m
    unfold Memory.write
    split
    · split <;> simp [Memory.read_cons, h]
    · split
      · rename_i _ hac
        subst hac
        split <;> simp [Memory.read_cons, h]
      · simp only [Memory.read_cons, ih]

/-- A read after a write to the same cell gives the value written. -/
theorem Memory.read_write_same {lo : Nat} (a : Nat) (v : S32) :
    (m : Memory) → Memory.wfFrom lo m = true → Memory.read a (Memory.write a v m) = v
  | [], _ => by
    unfold Memory.write
    split
    · simp_all
    · simp [Memory.read_cons]
  | (c, w) :: m, hm => by
    obtain ⟨_, _, h3⟩ := Memory.wfFrom_cons.1 hm
    have ih := Memory.read_write_same a v m h3
    unfold Memory.write
    split
    · rename_i hac
      split
      · rename_i hv
        rw [Memory.read_cons, if_neg (by omega), Memory.read_of_lt (by omega) h3, hv]
      · simp [Memory.read_cons]
    · split
      · rename_i _ hac
        subst hac
        split
        · rename_i hv
          rw [Memory.read_of_lt (Nat.lt_succ_self _) h3, hv]
        · simp [Memory.read_cons]
      · rename_i h4 h5
        rw [Memory.read_cons, if_neg h5, ih]

/-- A write keeps the canonical form. -/
theorem Memory.wfFrom_write {lo a : Nat} (ha : lo ≤ a) (v : S32) :
    (m : Memory) → Memory.wfFrom lo m = true → Memory.wfFrom lo (Memory.write a v m) = true
  | [], _ => by
    unfold Memory.write
    split
    · rfl
    · rename_i hv
      exact Memory.wfFrom_cons.2 ⟨ha, hv, rfl⟩
  | (c, w) :: m, hm => by
    obtain ⟨h1, h2, h3⟩ := Memory.wfFrom_cons.1 hm
    unfold Memory.write
    split
    · rename_i hac
      split
      · exact hm
      · rename_i hv
        exact Memory.wfFrom_cons.2 ⟨ha, hv, Memory.wfFrom_cons.2 ⟨hac, h2, h3⟩⟩
    · split
      · rename_i _ hac
        subst hac
        split
        · exact Memory.wfFrom_mono (by omega) h3
        · rename_i hv
          exact Memory.wfFrom_cons.2 ⟨ha, hv, h3⟩
      · rename_i h4 h5
        exact Memory.wfFrom_cons.2 ⟨h1, h2, Memory.wfFrom_write (by omega) v m h3⟩

theorem Memory.wf_write (a : Nat) (v : S32) {m : Memory} (h : Memory.wf m = true) : Memory.wf (Memory.write a v m) = true :=
  Memory.wfFrom_write (Nat.zero_le a) v m h

/-- A write to an existing cell lists no cell that does not exist. -/
theorem Memory.below_write {n a : Nat} (ha : a < n) (v : S32) :
    (m : Memory) → Memory.below n m = true → Memory.below n (Memory.write a v m) = true
  | [], _ => by
    unfold Memory.write
    split
    · rfl
    · exact Memory.below_cons.2 ⟨ha, rfl⟩
  | (c, w) :: m, hm => by
    obtain ⟨h1, h2⟩ := Memory.below_cons.1 hm
    unfold Memory.write
    split
    · split
      · exact hm
      · exact Memory.below_cons.2 ⟨ha, hm⟩
    · split
      · split
        · exact h2
        · exact Memory.below_cons.2 ⟨ha, h2⟩
      · exact Memory.below_cons.2 ⟨h1, Memory.below_write ha v m h2⟩

/-- Two memories in canonical form that read alike at every address are the same list. -/
theorem Memory.ext_of_wfFrom {lo : Nat} : (m m' : Memory) → Memory.wfFrom lo m = true → Memory.wfFrom lo m' = true →
    (∀ a, Memory.read a m = Memory.read a m') → m = m'
  | [], [], _, _, _ => rfl
  | [], (b, w) :: m', _, h', h => by
    obtain ⟨_, h2, _⟩ := Memory.wfFrom_cons.1 h'
    have := h b
    simp only [Memory.read_nil, Memory.read_cons, if_true] at this
    exact absurd this.symm h2
  | (a, v) :: m, [], hm, _, h => by
    obtain ⟨_, h2, _⟩ := Memory.wfFrom_cons.1 hm
    have := h a
    simp only [Memory.read_nil, Memory.read_cons, if_true] at this
    exact absurd this h2
  | (a, v) :: m, (b, w) :: m', hm, hm', h => by
    obtain ⟨_, h2, h3⟩ := Memory.wfFrom_cons.1 hm
    obtain ⟨_, h2', h3'⟩ := Memory.wfFrom_cons.1 hm'
    have hab : a = b := by
      rcases Nat.lt_trichotomy a b with hlt | heq | hgt
      · have := h a
        rw [Memory.read_cons, if_pos rfl, Memory.read_cons, if_neg (by omega), Memory.read_of_lt (by omega) h3'] at this
        exact absurd this h2
      · exact heq
      · have := h b
        rw [Memory.read_cons, if_neg (by omega), Memory.read_cons, if_pos rfl, Memory.read_of_lt (by omega) h3] at this
        exact absurd this.symm h2'
    subst hab
    have hvw : v = w := by simpa [Memory.read_cons] using h a
    subst hvw
    have htail : ∀ c, Memory.read c m = Memory.read c m' := by
      intro c
      by_cases hc : c = a
      · subst hc
        rw [Memory.read_of_lt (Nat.lt_succ_self _) h3, Memory.read_of_lt (Nat.lt_succ_self _) h3']
      · simpa [Memory.read_cons, hc] using h c
    rw [Memory.ext_of_wfFrom m m' h3 h3' htail]

end Sys2Proof.Machine
end

