-- ==== Sys2Proof/Laws/Ops.lean ====
section
/-! SUPPORT. One spec lemma per shared operation: everything it can do. -/

namespace Sys2Proof.Machine

/-! ### The accessors -/

theorem regRead_of_some {slot : Slot} {i : U32} {s : State} {v : S32} {k : S32 → Evaluation} (h : s.regs[i.toNat]? = some v) :
    regRead slot i s k = k v := by
  simp [regRead, h]

theorem regRead_of_le {slot : Slot} {i : U32} {s : State} {k : S32 → Evaluation} (h : s.regs.length ≤ i.toNat) :
    regRead slot i s k = .raise (.outOfBounds .reg slot i) := by
  simp [regRead, List.getElem?_eq_none h]

/-- What a checked register read can do. -/
theorem regRead_cases (slot : Slot) (i : U32) (s : State) (k : S32 → Evaluation) :
    (∃ v, s.regs[i.toNat]? = some v ∧ regRead slot i s k = k v) ∨
    (s.regs.length ≤ i.toNat ∧ regRead slot i s k = .raise (.outOfBounds .reg slot i)) := by
  by_cases h : i.toNat < s.regs.length
  · exact .inl ⟨s.regs[i.toNat], List.getElem?_eq_getElem h, regRead_of_some (List.getElem?_eq_getElem h)⟩
  · exact .inr ⟨by omega, regRead_of_le (by omega)⟩

theorem regWrite_of_lt {slot : Slot} {i : U32} {v : S32} {s : State} (h : i.toNat < s.regs.length) :
    regWrite slot i v s = .commit (s.setReg i v) := by
  simp [regWrite, State.numRegisters, h]

theorem regWrite_of_le {slot : Slot} {i : U32} {v : S32} {s : State} (h : s.regs.length ≤ i.toNat) :
    regWrite slot i v s = .raise (.outOfBounds .reg slot i) :=
  if_neg (Nat.not_lt.2 h)

/-- What a checked register write can do. -/
theorem regWrite_cases (slot : Slot) (i : U32) (v : S32) (s : State) :
    (i.toNat < s.regs.length ∧ regWrite slot i v s = .commit (s.setReg i v)) ∨
    (s.regs.length ≤ i.toNat ∧ regWrite slot i v s = .raise (.outOfBounds .reg slot i)) := by
  by_cases h : i.toNat < s.regs.length
  · exact .inl ⟨h, regWrite_of_lt h⟩
  · exact .inr ⟨by omega, regWrite_of_le (by omega)⟩

/-- What a checked memory read can do. -/
theorem memRead_cases (a : U32) (s : State) (k : S32 → Evaluation) :
    (a.toNat < s.cfg.memorySize ∧ memRead a s k = k (Memory.read a.toNat s.mem)) ∨
    (s.cfg.memorySize ≤ a.toNat ∧ memRead a s k = .raise (.outOfBounds .mem .addr a)) := by
  by_cases h : a.toNat < s.cfg.memorySize
  · exact .inl ⟨h, by simp [memRead, h]⟩
  · exact .inr ⟨by omega, by simp [memRead, h]⟩

/-- What a checked memory write can do. -/
theorem memWrite_cases (a : U32) (v : S32) (s : State) :
    (a.toNat < s.cfg.memorySize ∧ memWrite a v s = .commit (s.setMem a v)) ∨
    (s.cfg.memorySize ≤ a.toNat ∧ memWrite a v s = .raise (.outOfBounds .mem .addr a)) := by
  by_cases h : a.toNat < s.cfg.memorySize
  · exact .inl ⟨h, by simp [memWrite, h]⟩
  · exact .inr ⟨by omega, by simp [memWrite, h]⟩

/-- What a push can do. -/
theorem pushWord_cases (v : S32) (s : State) :
    (s.sp = 0 ∧ pushWord v s = .raise (.stackOverflow s.sp)) ∨
    (s.sp ≠ 0 ∧ s.sp.toNat < s.cfg.memorySize ∧ pushWord v s = .commit ((s.setMem s.sp v).setSp (s.sp - 1))) ∨
    (s.sp ≠ 0 ∧ s.cfg.memorySize ≤ s.sp.toNat ∧ pushWord v s = .stuck .stackPointerOutsideMemory) := by
  by_cases h0 : s.sp = 0
  · exact .inl ⟨h0, by simp [pushWord, h0]⟩
  · by_cases h : s.sp.toNat < s.cfg.memorySize
    · exact .inr (.inl ⟨h0, h, by rw [pushWord, if_neg h0, if_pos h]⟩)
    · exact .inr (.inr ⟨h0, by omega, by rw [pushWord, if_neg h0, if_neg h]⟩)

/-- What a pop can do. -/
theorem popWord_cases (s : State) (k : S32 → State → Evaluation) :
    (s.sp.toNat + 1 = s.cfg.memorySize ∧ popWord s k = .raise (.stackUnderflow s.sp)) ∨
    (s.sp.toNat + 1 < s.cfg.memorySize ∧ popWord s k = k (Memory.read (s.sp.toNat + 1) s.mem) (s.setSp (s.sp + 1))) ∨
    (s.cfg.memorySize < s.sp.toNat + 1 ∧ popWord s k = .stuck .stackPointerOutsideMemory) := by
  rcases Nat.lt_trichotomy (s.sp.toNat + 1) s.cfg.memorySize with h | h | h
  · exact .inr (.inl ⟨h, by rw [popWord, if_neg (by omega), if_pos h]⟩)
  · exact .inl ⟨h, by rw [popWord, if_pos h]⟩
  · exact .inr (.inr ⟨h, by rw [popWord, if_neg (by omega), if_neg (by omega)]⟩)

/-! ### The shapes -/

/-- What a three-operand rule can do: report the first bad register, or write the result. -/
theorem binary_cases (f : S32 → S32 → S32) (r1 r2 r3 : U32) (s : State) :
    (s.regs.length ≤ r1.toNat ∧ binary f r1 r2 r3 s = .raise (.outOfBounds .reg .reg1 r1)) ∨
    (r1.toNat < s.regs.length ∧ s.regs.length ≤ r2.toNat ∧ binary f r1 r2 r3 s = .raise (.outOfBounds .reg .reg2 r2)) ∨
    (r1.toNat < s.regs.length ∧ r2.toNat < s.regs.length ∧ s.regs.length ≤ r3.toNat ∧
      binary f r1 r2 r3 s = .raise (.outOfBounds .reg .reg3 r3)) ∨
    (∃ a b, s.regs[r1.toNat]? = some a ∧ s.regs[r2.toNat]? = some b ∧ r3.toNat < s.regs.length ∧
      binary f r1 r2 r3 s = .commit (s.setReg r3 (f a b))) := by
  unfold binary
  rcases regRead_cases .reg1 r1 s _ with ⟨a, ha, e1⟩ | ⟨h1, e1⟩
  · have hl1 := (List.getElem?_eq_some_iff.1 ha).1
    rw [e1]
    rcases regRead_cases .reg2 r2 s _ with ⟨b, hb, e2⟩ | ⟨h2, e2⟩
    · have hl2 := (List.getElem?_eq_some_iff.1 hb).1
      rw [e2]
      rcases regWrite_cases .reg3 r3 (f a b) s with ⟨h3, e3⟩ | ⟨h3, e3⟩
      · exact .inr (.inr (.inr ⟨a, b, ha, hb, h3, e3⟩))
      · exact .inr (.inr (.inl ⟨hl1, hl2, h3, e3⟩))
    · exact .inr (.inl ⟨hl1, h2, e2⟩)
  · exact .inl ⟨h1, e1⟩

/-- What a division can do: report the first failing check, or write the result. -/
theorem division_cases (f : S32 → S32 → S32) (r1 r2 r3 : U32) (s : State) :
    (s.regs.length ≤ r1.toNat ∧ division f r1 r2 r3 s = .raise (.outOfBounds .reg .reg1 r1)) ∨
    (r1.toNat < s.regs.length ∧ s.regs.length ≤ r2.toNat ∧ division f r1 r2 r3 s = .raise (.outOfBounds .reg .reg2 r2)) ∨
    (r1.toNat < s.regs.length ∧ s.regs[r2.toNat]? = some 0 ∧ division f r1 r2 r3 s = .raise (.divisionByZero r2)) ∨
    (∃ a b, s.regs[r1.toNat]? = some a ∧ s.regs[r2.toNat]? = some b ∧ b ≠ 0 ∧
      ((s.regs.length ≤ r3.toNat ∧ division f r1 r2 r3 s = .raise (.outOfBounds .reg .reg3 r3)) ∨
       (r3.toNat < s.regs.length ∧ division f r1 r2 r3 s = .commit (s.setReg r3 (f a b))))) := by
  unfold division
  rcases regRead_cases .reg1 r1 s _ with ⟨a, ha, e1⟩ | ⟨h1, e1⟩
  · have hl1 := (List.getElem?_eq_some_iff.1 ha).1
    rw [e1]
    rcases regRead_cases .reg2 r2 s _ with ⟨b, hb, e2⟩ | ⟨h2, e2⟩
    · rw [e2]
      by_cases hz : b = 0
      · subst hz
        exact .inr (.inr (.inl ⟨hl1, hb, if_pos rfl⟩))
      · rw [if_neg hz]
        rcases regWrite_cases .reg3 r3 (f a b) s with ⟨h3, e3⟩ | ⟨h3, e3⟩
        · exact .inr (.inr (.inr ⟨a, b, ha, hb, hz, .inr ⟨h3, e3⟩⟩))
        · exact .inr (.inr (.inr ⟨a, b, ha, hb, hz, .inl ⟨h3, e3⟩⟩))
    · exact .inr (.inl ⟨hl1, h2, e2⟩)
  · exact .inl ⟨h1, e1⟩

/-- What a rule `reg1 -> reg2` can do. -/
theorem unary_cases (f : S32 → S32) (r1 r2 : U32) (s : State) :
    (s.regs.length ≤ r1.toNat ∧ unary f r1 r2 s = .raise (.outOfBounds .reg .reg1 r1)) ∨
    (r1.toNat < s.regs.length ∧ s.regs.length ≤ r2.toNat ∧ unary f r1 r2 s = .raise (.outOfBounds .reg .reg2 r2)) ∨
    (∃ a, s.regs[r1.toNat]? = some a ∧ r2.toNat < s.regs.length ∧ unary f r1 r2 s = .commit (s.setReg r2 (f a))) := by
  unfold unary
  rcases regRead_cases .reg1 r1 s _ with ⟨a, ha, e1⟩ | ⟨h1, e1⟩
  · have hl1 := (List.getElem?_eq_some_iff.1 ha).1
    rw [e1]
    rcases regWrite_cases .reg2 r2 (f a) s with ⟨h2, e2⟩ | ⟨h2, e2⟩
    · exact .inr (.inr ⟨a, ha, h2, e2⟩)
    · exact .inr (.inl ⟨hl1, h2, e2⟩)
  · exact .inl ⟨h1, e1⟩

/-- What INC and DEC can do. -/
theorem inPlace_cases (f : S32 → S32) (r1 : U32) (s : State) :
    (s.regs.length ≤ r1.toNat ∧ inPlace f r1 s = .raise (.outOfBounds .reg .reg1 r1)) ∨
    (∃ a, s.regs[r1.toNat]? = some a ∧ inPlace f r1 s = .commit (s.setReg r1 (f a))) := by
  unfold inPlace
  rcases regRead_cases .reg1 r1 s _ with ⟨a, ha, e1⟩ | ⟨h1, e1⟩
  · rw [e1]
    exact .inr ⟨a, ha, regWrite_of_lt (List.getElem?_eq_some_iff.1 ha).1⟩
  · exact .inl ⟨h1, e1⟩

/-- What a jump on one register can do. -/
theorem branchIf_cases (test : S32 → Bool) (r1 addr : U32) (s : State) :
    (s.regs.length ≤ r1.toNat ∧ branchIf test r1 addr s = .raise (.outOfBounds .reg .reg1 r1)) ∨
    (∃ a, s.regs[r1.toNat]? = some a ∧
      ((test a = true ∧ branchIf test r1 addr s = .redirect addr) ∨ (test a = false ∧ branchIf test r1 addr s = .commit s))) := by
  unfold branchIf
  rcases regRead_cases .reg1 r1 s _ with ⟨a, ha, e1⟩ | ⟨h1, e1⟩
  · rw [e1]
    cases ht : test a
    · exact .inr ⟨a, ha, .inr ⟨ht, rfl⟩⟩
    · exact .inr ⟨a, ha, .inl ⟨ht, rfl⟩⟩
  · exact .inl ⟨h1, e1⟩

/-- What a jump on two registers can do. -/
theorem branchIf2_cases (test : S32 → S32 → Bool) (r1 r2 addr : U32) (s : State) :
    (s.regs.length ≤ r1.toNat ∧ branchIf2 test r1 r2 addr s = .raise (.outOfBounds .reg .reg1 r1)) ∨
    (r1.toNat < s.regs.length ∧ s.regs.length ≤ r2.toNat ∧ branchIf2 test r1 r2 addr s = .raise (.outOfBounds .reg .reg2 r2)) ∨
    (∃ a b, s.regs[r1.toNat]? = some a ∧ s.regs[r2.toNat]? = some b ∧
      ((test a b = true ∧ branchIf2 test r1 r2 addr s = .redirect addr) ∨
       (test a b = false ∧ branchIf2 test r1 r2 addr s = .commit s))) := by
  unfold branchIf2
  rcases regRead_cases .reg1 r1 s _ with ⟨a, ha, e1⟩ | ⟨h1, e1⟩
  · have hl1 := (List.getElem?_eq_some_iff.1 ha).1
    rw [e1]
    rcases regRead_cases .reg2 r2 s _ with ⟨b, hb, e2⟩ | ⟨h2, e2⟩
    · rw [e2]
      cases ht : test a b
      · exact .inr (.inr ⟨a, b, ha, hb, .inr ⟨ht, rfl⟩⟩)
      · exact .inr (.inr ⟨a, b, ha, hb, .inl ⟨ht, rfl⟩⟩)
    · exact .inr (.inl ⟨hl1, h2, e2⟩)
  · exact .inl ⟨h1, e1⟩

/-! ### Completing a step -/

@[simp] theorem complete_raise (op : Opcode) (s : State) (d : FaultDetail) :
    complete op s (.raise d) = .next (s.takeFault (some op) d) := rfl
@[simp] theorem complete_halt (op : Opcode) (s : State) : complete op s .halt = .next s.halt := rfl
@[simp] theorem complete_redirect (op : Opcode) (s : State) (a : U32) : complete op s (.redirect a) = .next (s.redirect a) := rfl
@[simp] theorem complete_commit (op : Opcode) (s t : State) : complete op s (.commit t) = .next t.advance := rfl
@[simp] theorem complete_stuck (op : Opcode) (s : State) (r : Fault) : complete op s (.stuck r) = .fault r := rfl

/-- What completing a step to a next state can do: one of the four outcomes of `45_execution_engine.md` R193. -/
theorem complete_next {op : Opcode} {s t : State} {e : Evaluation} (h : complete op s e = .next t) :
    (∃ d, e = .raise d ∧ t = s.takeFault (some op) d) ∨ (e = .halt ∧ t = s.halt) ∨
    (∃ a, e = .redirect a ∧ t = s.redirect a) ∨ (∃ u, e = .commit u ∧ t = u.advance) := by
  cases e with
  | raise d => exact .inl ⟨d, rfl, (Host.Outcome.next.inj h).symm⟩
  | halt => exact .inr (.inl ⟨rfl, (Host.Outcome.next.inj h).symm⟩)
  | redirect a => exact .inr (.inr (.inl ⟨a, rfl, (Host.Outcome.next.inj h).symm⟩))
  | commit u => exact .inr (.inr (.inr ⟨u, rfl, (Host.Outcome.next.inj h).symm⟩))
  | stuck r => cases h

end Sys2Proof.Machine
end

