-- ==== Sys2Proof/Laws/Exec.lean ====
section
/-! SUPPORT. What one instruction, and one step, can do to the state, said once, in the named updates of `Machine/Ops.lean`. -/

namespace Sys2Proof.Machine

/-- The next states an instruction of opcode `op` can answer from `s`. -/
inductive Answers (op : Opcode) (s : State) : State → Prop where
  | faults (d : FaultDetail) (h : d.cause ≠ .budgetExceeded) : Answers op s (s.takeFault (some op) d)
  | halts (h : op = .halt) : Answers op s s.halt
  | jumps (a : U32) : Answers op s (s.redirect a)
  | fallsThrough : Answers op s s.advance
  | writesReg (r : U32) (v : S32) (h : r.toNat < s.regs.length) : Answers op s (s.setReg r v).advance
  | stores (a : U32) (v : S32) (h : a.toNat < s.cfg.memorySize) : Answers op s (s.setMem a v).advance
  | pushes (v : S32) (h0 : s.sp ≠ 0) (h : s.sp.toNat < s.cfg.memorySize) : Answers op s ((s.setMem s.sp v).setSp (s.sp - 1)).advance
  | pops (r : U32) (v : S32) (hr : r.toNat < s.regs.length) (h : s.sp.toNat + 1 < s.cfg.memorySize) :
      Answers op s ((s.setSp (s.sp + 1)).setReg r v).advance

variable {op : Opcode} {s t : State}

theorem Answers.of_binary {f : S32 → S32 → S32} {r1 r2 r3 : U32} (h : complete op s (binary f r1 r2 r3 s) = .next t) : Answers op s t := by
  rcases binary_cases f r1 r2 r3 s with ⟨_, e⟩ | ⟨_, _, e⟩ | ⟨_, _, _, e⟩ | ⟨a, b, _, _, h3, e⟩ <;> rw [e] at h <;> cases h
  · exact .faults _ nofun
  · exact .faults _ nofun
  · exact .faults _ nofun
  · exact .writesReg _ _ h3

theorem Answers.of_division {f : S32 → S32 → S32} {r1 r2 r3 : U32} (h : complete op s (division f r1 r2 r3 s) = .next t) :
    Answers op s t := by
  rcases division_cases f r1 r2 r3 s with ⟨_, e⟩ | ⟨_, _, e⟩ | ⟨_, _, e⟩ | ⟨a, b, _, _, _, ⟨_, e⟩ | ⟨h3, e⟩⟩ <;> rw [e] at h <;> cases h
  · exact .faults _ nofun
  · exact .faults _ nofun
  · exact .faults _ nofun
  · exact .faults _ nofun
  · exact .writesReg _ _ h3

theorem Answers.of_unary {f : S32 → S32} {r1 r2 : U32} (h : complete op s (unary f r1 r2 s) = .next t) : Answers op s t := by
  rcases unary_cases f r1 r2 s with ⟨_, e⟩ | ⟨_, _, e⟩ | ⟨a, _, h2, e⟩ <;> rw [e] at h <;> cases h
  · exact .faults _ nofun
  · exact .faults _ nofun
  · exact .writesReg _ _ h2

theorem Answers.of_inPlace {f : S32 → S32} {r1 : U32} (h : complete op s (inPlace f r1 s) = .next t) : Answers op s t := by
  rcases inPlace_cases f r1 s with ⟨_, e⟩ | ⟨a, ha, e⟩ <;> rw [e] at h <;> cases h
  · exact .faults _ nofun
  · exact .writesReg _ _ (List.getElem?_eq_some_iff.1 ha).1

theorem Answers.of_branchIf {p : S32 → Bool} {r1 a : U32} (h : complete op s (branchIf p r1 a s) = .next t) : Answers op s t := by
  rcases branchIf_cases p r1 a s with ⟨_, e⟩ | ⟨_, _, ⟨_, e⟩ | ⟨_, e⟩⟩ <;> rw [e] at h <;> cases h
  · exact .faults _ nofun
  · exact .jumps _
  · exact .fallsThrough

theorem Answers.of_branchIf2 {p : S32 → S32 → Bool} {r1 r2 a : U32} (h : complete op s (branchIf2 p r1 r2 a s) = .next t) :
    Answers op s t := by
  rcases branchIf2_cases p r1 r2 a s with ⟨_, e⟩ | ⟨_, _, e⟩ | ⟨_, _, _, _, ⟨_, e⟩ | ⟨_, e⟩⟩ <;> rw [e] at h <;> cases h
  · exact .faults _ nofun
  · exact .faults _ nofun
  · exact .jumps _
  · exact .fallsThrough

theorem Answers.of_regWrite {slot : Slot} {r : U32} {v : S32} (h : complete op s (regWrite slot r v s) = .next t) : Answers op s t := by
  rcases regWrite_cases slot r v s with ⟨hr, e⟩ | ⟨_, e⟩ <;> rw [e] at h <;> cases h
  · exact .writesReg _ _ hr
  · exact .faults _ nofun

theorem Answers.of_regRead {slot : Slot} {r : U32} {k : S32 → Evaluation} (hk : ∀ v, complete op s (k v) = .next t → Answers op s t)
    (h : complete op s (regRead slot r s k) = .next t) : Answers op s t := by
  rcases regRead_cases slot r s k with ⟨v, _, e⟩ | ⟨_, e⟩ <;> rw [e] at h
  · exact hk v h
  · cases h
    exact .faults _ nofun

theorem Answers.of_memRead {a : U32} {k : S32 → Evaluation} (hk : ∀ v, complete op s (k v) = .next t → Answers op s t)
    (h : complete op s (memRead a s k) = .next t) : Answers op s t := by
  rcases memRead_cases a s k with ⟨_, e⟩ | ⟨_, e⟩ <;> rw [e] at h
  · exact hk _ h
  · cases h
    exact .faults _ nofun

theorem Answers.of_memWrite {a : U32} {v : S32} (h : complete op s (memWrite a v s) = .next t) : Answers op s t := by
  rcases memWrite_cases a v s with ⟨ha, e⟩ | ⟨_, e⟩ <;> rw [e] at h <;> cases h
  · exact .stores _ _ ha
  · exact .faults _ nofun

theorem Answers.of_pushWord {v : S32} (h : complete op s (pushWord v s) = .next t) : Answers op s t := by
  rcases pushWord_cases v s with ⟨_, e⟩ | ⟨h0, h1, e⟩ | ⟨_, _, e⟩ <;> rw [e] at h <;> cases h
  · exact .faults _ nofun
  · exact .pushes _ h0 h1

theorem Answers.of_popWord {slot : Slot} {r : U32} (h : complete op s (popWord s fun v u => regWrite slot r v u) = .next t) :
    Answers op s t := by
  rcases popWord_cases s fun v u => regWrite slot r v u with ⟨_, e⟩ | ⟨h1, e⟩ | ⟨_, e⟩ <;> rw [e] at h
  · cases h
    exact .faults _ nofun
  · rcases regWrite_cases slot r (Memory.read (s.sp.toNat + 1) s.mem) (s.setSp (s.sp + 1)) with ⟨hr, e'⟩ | ⟨_, e'⟩ <;> rw [e'] at h <;> cases h
    · exact .pops _ _ hr h1
    · exact .faults _ nofun
  · cases h

/-- What one instruction can do. -/
theorem exec_answers {i : Instr} (h : exec i s = .next t) : Answers i.opcode s t := by
  cases i with
  | nop => cases h; exact .fallsThrough
  | halt => cases h; exact .halts rfl
  | jmp a => cases h; exact .jumps a
  | b a => cases h; exact .jumps a
  | add | sub | mul | and | or | xor | shl | shr | cmp | test => exact .of_binary h
  | div | mod => exact .of_division h
  | neg | abs | not => exact .of_unary h
  | inc | dec => exact .of_inPlace h
  | jz | bz | jnz | bnz => exact .of_branchIf h
  | je | jne => exact .of_branchIf2 h
  | li => exact .of_regWrite h
  | mov => exact .of_regRead (fun _ => .of_regWrite) h
  | load => exact .of_memRead (fun _ => .of_regWrite) h
  | store => exact .of_regRead (fun _ => .of_memWrite) h
  | push => exact .of_regRead (fun _ => .of_pushWord) h
  | pop => exact .of_popWord h

/-- What one step can do: spend the budget, reach the end of the program, or run the fetched instruction. -/
theorem step_next_cases (h : step s = .next t) :
    (s.cfg.budget.toNat ≤ s.executedCount.toNat ∧ t = s.takeFault none (.budgetExceeded s.executedCount)) ∨
    (s.executedCount.toNat < s.cfg.budget.toNat ∧ s.cfg.program.length ≤ s.pc.toNat ∧ t = s.halt) ∨
    (∃ w i, s.executedCount.toNat < s.cfg.budget.toNat ∧ s.cfg.program[s.pc.toNat]? = some w ∧ decode w = .ok i ∧ exec i s = .next t) := by
  obtain ⟨_, hb, h⟩ := step_next h
  rcases runningStep_cases hb with ⟨x, e⟩ | ⟨x, y, e⟩ | ⟨w, i, x, y, z, e⟩ <;> rw [e] at h
  · cases h
    exact .inl ⟨x, rfl⟩
  · cases h
    exact .inr (.inl ⟨x, y, rfl⟩)
  · exact .inr (.inr ⟨w, i, x, y, z, h⟩)

end Sys2Proof.Machine
end

