-- ==== Sys2Proof/Laws/PerInstr.lean ====
section
/-! SUPPORT. Statements made once per constructor of `Instr`. -/

/-- The word of an instruction carries the tag of its opcode, so the decoder selects that opcode (`30_encoding.md` R82, R84). -/
def Sys2Proof.Laws.EncodeTag.Statement (i : Sys2Proof.Instr) : Prop :=
  Sys2Proof.Opcode.ofTag? (Sys2Proof.InstrWord.opcode (Sys2Proof.encode i)).toNat = some i.opcode

theorem Sys2Proof.Laws.EncodeTag.of_encode (i : Sys2Proof.Instr) (h : i.opcode.tag < 33) : Sys2Proof.Laws.EncodeTag.Statement i := by
  have ho : Sys2Proof.InstrWord.opcode (Sys2Proof.encode i) = BitVec.ofNat 32 i.opcode.tag := by
    simp [Sys2Proof.encode]
  have hn : (BitVec.ofNat 32 i.opcode.tag).toNat = i.opcode.tag := by
    rw [BitVec.toNat_ofNat]
    exact Nat.mod_eq_of_lt (by omega)
  rw [Sys2Proof.Laws.EncodeTag.Statement, ho, hn, Sys2Proof.Opcode.ofTag_tag]

theorem Sys2Proof.Laws.EncodeTag.nop : Sys2Proof.Laws.EncodeTag.Statement .nop := Sys2Proof.Laws.EncodeTag.of_encode _ (Sys2Proof.Opcode.tag_lt _)
theorem Sys2Proof.Laws.EncodeTag.add (r1 : Sys2Proof.U32) (r2 : Sys2Proof.U32) (r3 : Sys2Proof.U32) : Sys2Proof.Laws.EncodeTag.Statement (.add r1 r2 r3) := Sys2Proof.Laws.EncodeTag.of_encode _ (Sys2Proof.Opcode.tag_lt _)
theorem Sys2Proof.Laws.EncodeTag.sub (r1 : Sys2Proof.U32) (r2 : Sys2Proof.U32) (r3 : Sys2Proof.U32) : Sys2Proof.Laws.EncodeTag.Statement (.sub r1 r2 r3) := Sys2Proof.Laws.EncodeTag.of_encode _ (Sys2Proof.Opcode.tag_lt _)
theorem Sys2Proof.Laws.EncodeTag.mul (r1 : Sys2Proof.U32) (r2 : Sys2Proof.U32) (r3 : Sys2Proof.U32) : Sys2Proof.Laws.EncodeTag.Statement (.mul r1 r2 r3) := Sys2Proof.Laws.EncodeTag.of_encode _ (Sys2Proof.Opcode.tag_lt _)
theorem Sys2Proof.Laws.EncodeTag.div (r1 : Sys2Proof.U32) (r2 : Sys2Proof.U32) (r3 : Sys2Proof.U32) : Sys2Proof.Laws.EncodeTag.Statement (.div r1 r2 r3) := Sys2Proof.Laws.EncodeTag.of_encode _ (Sys2Proof.Opcode.tag_lt _)
theorem Sys2Proof.Laws.EncodeTag.store (r1 : Sys2Proof.U32) (a : Sys2Proof.U32) : Sys2Proof.Laws.EncodeTag.Statement (.store r1 a) := Sys2Proof.Laws.EncodeTag.of_encode _ (Sys2Proof.Opcode.tag_lt _)
theorem Sys2Proof.Laws.EncodeTag.load (r1 : Sys2Proof.U32) (a : Sys2Proof.U32) : Sys2Proof.Laws.EncodeTag.Statement (.load r1 a) := Sys2Proof.Laws.EncodeTag.of_encode _ (Sys2Proof.Opcode.tag_lt _)
theorem Sys2Proof.Laws.EncodeTag.li (r1 : Sys2Proof.U32) (v : Sys2Proof.S32) : Sys2Proof.Laws.EncodeTag.Statement (.li r1 v) := Sys2Proof.Laws.EncodeTag.of_encode _ (Sys2Proof.Opcode.tag_lt _)
theorem Sys2Proof.Laws.EncodeTag.push (r1 : Sys2Proof.U32) : Sys2Proof.Laws.EncodeTag.Statement (.push r1) := Sys2Proof.Laws.EncodeTag.of_encode _ (Sys2Proof.Opcode.tag_lt _)
theorem Sys2Proof.Laws.EncodeTag.pop (r1 : Sys2Proof.U32) : Sys2Proof.Laws.EncodeTag.Statement (.pop r1) := Sys2Proof.Laws.EncodeTag.of_encode _ (Sys2Proof.Opcode.tag_lt _)
theorem Sys2Proof.Laws.EncodeTag.jmp (a : Sys2Proof.U32) : Sys2Proof.Laws.EncodeTag.Statement (.jmp a) := Sys2Proof.Laws.EncodeTag.of_encode _ (Sys2Proof.Opcode.tag_lt _)
theorem Sys2Proof.Laws.EncodeTag.jz (r1 : Sys2Proof.U32) (a : Sys2Proof.U32) : Sys2Proof.Laws.EncodeTag.Statement (.jz r1 a) := Sys2Proof.Laws.EncodeTag.of_encode _ (Sys2Proof.Opcode.tag_lt _)
theorem Sys2Proof.Laws.EncodeTag.jnz (r1 : Sys2Proof.U32) (a : Sys2Proof.U32) : Sys2Proof.Laws.EncodeTag.Statement (.jnz r1 a) := Sys2Proof.Laws.EncodeTag.of_encode _ (Sys2Proof.Opcode.tag_lt _)
theorem Sys2Proof.Laws.EncodeTag.mov (r1 : Sys2Proof.U32) (r2 : Sys2Proof.U32) : Sys2Proof.Laws.EncodeTag.Statement (.mov r1 r2) := Sys2Proof.Laws.EncodeTag.of_encode _ (Sys2Proof.Opcode.tag_lt _)
theorem Sys2Proof.Laws.EncodeTag.je (r1 : Sys2Proof.U32) (r2 : Sys2Proof.U32) (a : Sys2Proof.U32) : Sys2Proof.Laws.EncodeTag.Statement (.je r1 r2 a) := Sys2Proof.Laws.EncodeTag.of_encode _ (Sys2Proof.Opcode.tag_lt _)
theorem Sys2Proof.Laws.EncodeTag.jne (r1 : Sys2Proof.U32) (r2 : Sys2Proof.U32) (a : Sys2Proof.U32) : Sys2Proof.Laws.EncodeTag.Statement (.jne r1 r2 a) := Sys2Proof.Laws.EncodeTag.of_encode _ (Sys2Proof.Opcode.tag_lt _)
theorem Sys2Proof.Laws.EncodeTag.and (r1 : Sys2Proof.U32) (r2 : Sys2Proof.U32) (r3 : Sys2Proof.U32) : Sys2Proof.Laws.EncodeTag.Statement (.and r1 r2 r3) := Sys2Proof.Laws.EncodeTag.of_encode _ (Sys2Proof.Opcode.tag_lt _)
theorem Sys2Proof.Laws.EncodeTag.or (r1 : Sys2Proof.U32) (r2 : Sys2Proof.U32) (r3 : Sys2Proof.U32) : Sys2Proof.Laws.EncodeTag.Statement (.or r1 r2 r3) := Sys2Proof.Laws.EncodeTag.of_encode _ (Sys2Proof.Opcode.tag_lt _)
theorem Sys2Proof.Laws.EncodeTag.xor (r1 : Sys2Proof.U32) (r2 : Sys2Proof.U32) (r3 : Sys2Proof.U32) : Sys2Proof.Laws.EncodeTag.Statement (.xor r1 r2 r3) := Sys2Proof.Laws.EncodeTag.of_encode _ (Sys2Proof.Opcode.tag_lt _)
theorem Sys2Proof.Laws.EncodeTag.not (r1 : Sys2Proof.U32) (r2 : Sys2Proof.U32) : Sys2Proof.Laws.EncodeTag.Statement (.not r1 r2) := Sys2Proof.Laws.EncodeTag.of_encode _ (Sys2Proof.Opcode.tag_lt _)
theorem Sys2Proof.Laws.EncodeTag.shl (r1 : Sys2Proof.U32) (r2 : Sys2Proof.U32) (r3 : Sys2Proof.U32) : Sys2Proof.Laws.EncodeTag.Statement (.shl r1 r2 r3) := Sys2Proof.Laws.EncodeTag.of_encode _ (Sys2Proof.Opcode.tag_lt _)
theorem Sys2Proof.Laws.EncodeTag.shr (r1 : Sys2Proof.U32) (r2 : Sys2Proof.U32) (r3 : Sys2Proof.U32) : Sys2Proof.Laws.EncodeTag.Statement (.shr r1 r2 r3) := Sys2Proof.Laws.EncodeTag.of_encode _ (Sys2Proof.Opcode.tag_lt _)
theorem Sys2Proof.Laws.EncodeTag.cmp (r1 : Sys2Proof.U32) (r2 : Sys2Proof.U32) (r3 : Sys2Proof.U32) : Sys2Proof.Laws.EncodeTag.Statement (.cmp r1 r2 r3) := Sys2Proof.Laws.EncodeTag.of_encode _ (Sys2Proof.Opcode.tag_lt _)
theorem Sys2Proof.Laws.EncodeTag.test (r1 : Sys2Proof.U32) (r2 : Sys2Proof.U32) (r3 : Sys2Proof.U32) : Sys2Proof.Laws.EncodeTag.Statement (.test r1 r2 r3) := Sys2Proof.Laws.EncodeTag.of_encode _ (Sys2Proof.Opcode.tag_lt _)
theorem Sys2Proof.Laws.EncodeTag.b (a : Sys2Proof.U32) : Sys2Proof.Laws.EncodeTag.Statement (.b a) := Sys2Proof.Laws.EncodeTag.of_encode _ (Sys2Proof.Opcode.tag_lt _)
theorem Sys2Proof.Laws.EncodeTag.bz (r1 : Sys2Proof.U32) (a : Sys2Proof.U32) : Sys2Proof.Laws.EncodeTag.Statement (.bz r1 a) := Sys2Proof.Laws.EncodeTag.of_encode _ (Sys2Proof.Opcode.tag_lt _)
theorem Sys2Proof.Laws.EncodeTag.bnz (r1 : Sys2Proof.U32) (a : Sys2Proof.U32) : Sys2Proof.Laws.EncodeTag.Statement (.bnz r1 a) := Sys2Proof.Laws.EncodeTag.of_encode _ (Sys2Proof.Opcode.tag_lt _)
theorem Sys2Proof.Laws.EncodeTag.neg (r1 : Sys2Proof.U32) (r2 : Sys2Proof.U32) : Sys2Proof.Laws.EncodeTag.Statement (.neg r1 r2) := Sys2Proof.Laws.EncodeTag.of_encode _ (Sys2Proof.Opcode.tag_lt _)
theorem Sys2Proof.Laws.EncodeTag.abs (r1 : Sys2Proof.U32) (r2 : Sys2Proof.U32) : Sys2Proof.Laws.EncodeTag.Statement (.abs r1 r2) := Sys2Proof.Laws.EncodeTag.of_encode _ (Sys2Proof.Opcode.tag_lt _)
theorem Sys2Proof.Laws.EncodeTag.mod (r1 : Sys2Proof.U32) (r2 : Sys2Proof.U32) (r3 : Sys2Proof.U32) : Sys2Proof.Laws.EncodeTag.Statement (.mod r1 r2 r3) := Sys2Proof.Laws.EncodeTag.of_encode _ (Sys2Proof.Opcode.tag_lt _)
theorem Sys2Proof.Laws.EncodeTag.inc (r1 : Sys2Proof.U32) : Sys2Proof.Laws.EncodeTag.Statement (.inc r1) := Sys2Proof.Laws.EncodeTag.of_encode _ (Sys2Proof.Opcode.tag_lt _)
theorem Sys2Proof.Laws.EncodeTag.dec (r1 : Sys2Proof.U32) : Sys2Proof.Laws.EncodeTag.Statement (.dec r1) := Sys2Proof.Laws.EncodeTag.of_encode _ (Sys2Proof.Opcode.tag_lt _)
theorem Sys2Proof.Laws.EncodeTag.halt : Sys2Proof.Laws.EncodeTag.Statement .halt := Sys2Proof.Laws.EncodeTag.of_encode _ (Sys2Proof.Opcode.tag_lt _)
end

