-- ==== Sys2Proof/Tests/Slice0.lean ====
section
/-! SUPPORT. Tests. Expected results are taken from `spec/95_test_vectors.md` (the row is named) or worked out by hand from the rule named; the
words are written out from the layout of `spec/30_encoding.md` R82 and the tags of R84. The last part holds, for every statement with
hypotheses, a concrete case that meets them. -/

namespace Sys2Proof.Tests

open Sys2Proof.Machine

/-! ### Small states and what a test looks at -/

/-- A Running machine with the given registers and `ms` words of zeros. -/
def machine (regs : List S32) (ms : Nat) : State :=
  { State.construct regs.length { memorySize := ms, program := [], budget := 10, shiftOor := .mod32 } with regs := regs }

/-- The next state, if there is one. -/
def after : Host.Outcome State Fault Refusal → Option State
  | .next t => some t
  | .fault _ => none
  | .refused _ => none

/-- The refusal, if there is one. -/
def refusal : Host.Outcome State Fault Refusal → Option Refusal
  | .next _ => none
  | .fault _ => none
  | .refused r => some r

/-- The registers, `sp`, `pc` and the count of a next state that is not Faulted. -/
def outcome (o : Host.Outcome State Fault Refusal) : Option (List S32 × U32 × U32 × U64) :=
  match after o with
  | some t => if t.runState = .faulted then none else some (t.regs, t.sp, t.pc, t.executedCount)
  | none => none

/-- The fault record of the next state. -/
def record (o : Host.Outcome State Fault Refusal) : Option FaultRecord := (after o).bind (·.fault)

/-- The memory word at `a` in the next state. -/
def word (a : Nat) (o : Host.Outcome State Fault Refusal) : Option S32 := (after o).map fun t => Memory.read a t.mem

/-- Section 2.1's harness after the two LIs: `x = [a, b, 0]`. -/
def harness (a b : S32) : State := machine [a, b, 0] 2

/-! ### Well-formedness: each check refuses an ill-formed term -/

theorem test_word_tag_33_illegal : wordLegal 0x21 = false ∧ wordLegal 0x20 = true := by decide

theorem test_word_high_tag_illegal : wordLegal 0xFFFFFFFF = false := by decide

theorem test_capacity_range :
    capacityLegal 0 = false ∧ capacityLegal 1 = true ∧ capacityLegal 4294967296 = true ∧ capacityLegal 4294967297 = false := by decide

theorem test_budget_zero_illegal : budgetLegal 0 = false ∧ budgetLegal 1 = true := by decide

theorem test_program_length_illegal : programLengthLegal (List.replicate 4294967296 0) = false := by
  rw [programLengthLegal, List.length_replicate]
  decide

theorem test_program_word_illegal : programWordsLegal [0, 0x21] = false ∧ programWordsLegal [] = true := by decide

theorem test_config_illegal :
    Config.legal 0 resetConfig = false ∧ Config.legal 1 { resetConfig with memorySize := 0 } = false ∧
    Config.legal 1 { resetConfig with budget := 0 } = false ∧ Config.legal 1 { resetConfig with program := [0x21] } = false ∧
    Config.legal 1 resetConfig = true := by decide

/-! ### Decoding: one word per constructor, every slot filled, so that a slot read from the wrong place or not ignored shows -/

theorem test_decode_arithmetic :
    decodeTableWord 192 0xFFFFFF550000004400000033000000220000001100000001 = some (.add 0x11 0x22 0x33) ∧
    decodeTableWord 192 0xFFFFFF550000004400000033000000220000001100000002 = some (.sub 0x11 0x22 0x33) ∧
    decodeTableWord 192 0xFFFFFF550000004400000033000000220000001100000003 = some (.mul 0x11 0x22 0x33) ∧
    decodeTableWord 192 0xFFFFFF550000004400000033000000220000001100000004 = some (.div 0x11 0x22 0x33) ∧
    decodeTableWord 192 0xFFFFFF55000000440000003300000022000000110000001B = some (.neg 0x11 0x22) ∧
    decodeTableWord 192 0xFFFFFF55000000440000003300000022000000110000001C = some (.abs 0x11 0x22) ∧
    decodeTableWord 192 0xFFFFFF55000000440000003300000022000000110000001D = some (.mod 0x11 0x22 0x33) ∧
    decodeTableWord 192 0xFFFFFF55000000440000003300000022000000110000001E = some (.inc 0x11) ∧
    decodeTableWord 192 0xFFFFFF55000000440000003300000022000000110000001F = some (.dec 0x11) := by
  decide

theorem test_decode_bitwise :
    decodeTableWord 192 0xFFFFFF550000004400000033000000220000001100000010 = some (.and 0x11 0x22 0x33) ∧
    decodeTableWord 192 0xFFFFFF550000004400000033000000220000001100000011 = some (.or 0x11 0x22 0x33) ∧
    decodeTableWord 192 0xFFFFFF550000004400000033000000220000001100000012 = some (.xor 0x11 0x22 0x33) ∧
    decodeTableWord 192 0xFFFFFF550000004400000033000000220000001100000013 = some (.not 0x11 0x22) ∧
    decodeTableWord 192 0xFFFFFF550000004400000033000000220000001100000014 = some (.shl 0x11 0x22 0x33) ∧
    decodeTableWord 192 0xFFFFFF550000004400000033000000220000001100000015 = some (.shr 0x11 0x22 0x33) ∧
    decodeTableWord 192 0xFFFFFF550000004400000033000000220000001100000016 = some (.cmp 0x11 0x22 0x33) ∧
    decodeTableWord 192 0xFFFFFF550000004400000033000000220000001100000017 = some (.test 0x11 0x22 0x33) := by
  decide

theorem test_decode_data_movement :
    decodeTableWord 192 0xFFFFFF550000004400000033000000220000001100000005 = some (.store 0x11 0x44) ∧
    decodeTableWord 192 0xFFFFFF550000004400000033000000220000001100000006 = some (.load 0x11 0x44) ∧
    decodeTableWord 192 0xFFFFFF550000004400000033000000220000001100000007 = some (.li 0x11 (-171)) ∧
    decodeTableWord 192 0xFFFFFF550000004400000033000000220000001100000008 = some (.push 0x11) ∧
    decodeTableWord 192 0xFFFFFF550000004400000033000000220000001100000009 = some (.pop 0x11) ∧
    decodeTableWord 192 0xFFFFFF55000000440000003300000022000000110000000D = some (.mov 0x11 0x22) := by
  decide

theorem test_decode_control_flow :
    decodeTableWord 192 0xFFFFFF55000000440000003300000022000000110000000A = some (.jmp 0x44) ∧
    decodeTableWord 192 0xFFFFFF55000000440000003300000022000000110000000B = some (.jz 0x11 0x44) ∧
    decodeTableWord 192 0xFFFFFF55000000440000003300000022000000110000000C = some (.jnz 0x11 0x44) ∧
    decodeTableWord 192 0xFFFFFF55000000440000003300000022000000110000000E = some (.je 0x11 0x22 0x44) ∧
    decodeTableWord 192 0xFFFFFF55000000440000003300000022000000110000000F = some (.jne 0x11 0x22 0x44) ∧
    decodeTableWord 192 0xFFFFFF550000004400000033000000220000001100000018 = some (.b 0x44) ∧
    decodeTableWord 192 0xFFFFFF550000004400000033000000220000001100000019 = some (.bz 0x11 0x44) ∧
    decodeTableWord 192 0xFFFFFF55000000440000003300000022000000110000001A = some (.bnz 0x11 0x44) := by
  decide

theorem test_decode_misc :
    decodeTableWord 192 0xFFFFFF550000004400000033000000220000001100000000 = some .nop ∧
    decodeTableWord 192 0xFFFFFF550000004400000033000000220000001100000020 = some .halt := by
  decide
/-- The words of section 2.7, one by one. -/
theorem test_decode_worked_encodings :
    decodeTableWord 192 0xFFFFFFFB0000000000000000000000000000000200000007 = some (.li 2 (-5)) ∧
    decodeTableWord 192 0x000000000000000000000003000000020000000100000001 = some (.add 1 2 3) ∧
    decodeTableWord 192 0x00000000000000040000000000000002000000010000000E = some (.je 1 2 4) ∧
    decodeTableWord 192 0x000000000000000700000000000000000000000000000006 = some (.load 0 7) := by decide

/-- R88: 33 and above spell nothing; E8: a NOP may hold anything in its slots. -/
theorem test_decode_edges :
    decodeTableWord 192 0x21 = none ∧ decodeTableWord 192 0xFFFFFFFF = none ∧
    decodeTableWord 192 0xFFFFFFFF000000090000000800000007EE6B280000000000 = some .nop := by decide

/-- The words of section 2.7 again, from the encoder. -/
theorem test_encode_worked_encodings :
    encode (.li 2 (-5)) = 0xFFFFFFFB0000000000000000000000000000000200000007 ∧
    encode (.je 1 2 4) = 0x00000000000000040000000000000002000000010000000E ∧ encode .halt = 0x20 := by decide

/-! ### Arithmetic -/

theorem test_add : outcome (exec (.add 0 1 2) (harness 7 (-9))) = some ([7, -9, -2], 1, 1, 1) := by decide
theorem test_add_wraps : outcome (exec (.add 0 1 2) (harness 2147483647 1)) = some ([2147483647, 1, -2147483648], 1, 1, 1) := by decide
theorem test_sub : outcome (exec (.sub 0 1 2) (harness 3 5)) = some ([3, 5, -2], 1, 1, 1) := by decide
theorem test_sub_wraps : outcome (exec (.sub 0 1 2) (harness 0 (-2147483648))) = some ([0, -2147483648, -2147483648], 1, 1, 1) := by decide
theorem test_mul : outcome (exec (.mul 0 1 2) (harness 7 (-9))) = some ([7, -9, -63], 1, 1, 1) := by decide
theorem test_mul_wraps : outcome (exec (.mul 0 1 2) (harness 46341 46341)) = some ([46341, 46341, -2147479015], 1, 1, 1) := by decide
theorem test_div_truncates : outcome (exec (.div 0 1 2) (harness (-7) 2)) = some ([-7, 2, -3], 1, 1, 1) := by decide
/-- F2: the zero divisor is reported before the bad `reg3`, and nothing changes. -/
theorem test_div_by_zero : after (exec (.div 0 1 9) (harness 1 0)) =
    some { harness 1 0 with runState := .faulted, fault := some { pc := 0, opcode := some .div, detail := .divisionByZero 1 } } := by decide
theorem test_mod_sign : outcome (exec (.mod 0 1 2) (harness (-2147483648) 3)) = some ([-2147483648, 3, -2], 1, 1, 1) := by decide
theorem test_mod_int_min : outcome (exec (.mod 0 1 2) (harness (-2147483648) (-1))) = some ([-2147483648, -1, 0], 1, 1, 1) := by decide
theorem test_neg_int_min : outcome (exec (.neg 0 1) (machine [-2147483648, 0] 2)) = some ([-2147483648, -2147483648], 1, 1, 1) := by decide
theorem test_neg : outcome (exec (.neg 0 1) (machine [-12, 0] 2)) = some ([-12, 12], 1, 1, 1) := by decide
theorem test_abs : outcome (exec (.abs 0 1) (machine [-12, 0] 2)) = some ([-12, 12], 1, 1, 1) := by decide
theorem test_abs_int_min : outcome (exec (.abs 0 1) (machine [-2147483648, 0] 2)) = some ([-2147483648, -2147483648], 1, 1, 1) := by decide
theorem test_inc_wraps : outcome (exec (.inc 0) (machine [2147483647] 1)) = some ([-2147483648], 0, 1, 1) := by decide
theorem test_dec_wraps : outcome (exec (.dec 0) (machine [-2147483648] 1)) = some ([2147483647], 0, 1, 1) := by decide
/-- F4: the first failing slot is the one reported. -/
theorem test_add_bad_register : record (exec (.add 0 7 8) (harness 0 0)) =
    some { pc := 0, opcode := some .add, detail := .outOfBounds .reg .reg2 7 } := by decide

/-! ### Bitwise -/

theorem test_and : outcome (exec (.and 0 1 2) (harness 12 10)) = some ([12, 10, 8], 1, 1, 1) := by decide
theorem test_or : outcome (exec (.or 0 1 2) (harness 12 10)) = some ([12, 10, 14], 1, 1, 1) := by decide
theorem test_xor : outcome (exec (.xor 0 1 2) (harness (-1) 85)) = some ([-1, 85, -86], 1, 1, 1) := by decide
theorem test_not : outcome (exec (.not 0 1) (machine [5, 0] 2)) = some ([5, -6], 1, 1, 1) := by decide
theorem test_shl : outcome (exec (.shl 0 1 2) (harness 0x12345678 8)) = some ([0x12345678, 8, 878082048], 1, 1, 1) := by decide
theorem test_shl_count_out_of_range : outcome (exec (.shl 0 1 2) (harness 1 (-1))) = some ([1, -1, -2147483648], 1, 1, 1) := by decide
theorem test_shr_floors : outcome (exec (.shr 0 1 2) (harness (-7) 1)) = some ([-7, 1, -4], 1, 1, 1) := by decide
theorem test_shr_count_out_of_range : outcome (exec (.shr 0 1 2) (harness (-256) 33)) = some ([-256, 33, -128], 1, 1, 1) := by decide
theorem test_cmp : outcome (exec (.cmp 0 1 2) (harness 5 5)) = some ([5, 5, 0], 1, 1, 1) := by decide
theorem test_cmp_wraps : outcome (exec (.cmp 0 1 2) (harness (-2147483648) 1)) = some ([-2147483648, 1, 2147483647], 1, 1, 1) := by decide
theorem test_test : outcome (exec (.test 0 1 2) (harness 6 1)) = some ([6, 1, 0], 1, 1, 1) := by decide

/-! ### Data movement -/

/-- M1, the STORE: address `MS - 1` is writable and `sp` stays. -/
theorem test_store : outcome (exec (.store 0 3) (machine [-3, 0] 4)) = some ([-3, 0], 3, 1, 1) ∧ word 3 (exec (.store 0 3) (machine [-3, 0] 4)) = some (-3) := by
  decide
/-- M6. -/
theorem test_store_bad_register : record (exec (.store 2 4) (machine [0, 0] 4)) =
    some { pc := 0, opcode := some .store, detail := .outOfBounds .reg .reg1 2 } := by decide
/-- M2. -/
theorem test_load_unwritten : outcome (exec (.load 0 0) (machine [7, 0] 4)) = some ([0, 0], 3, 1, 1) := by decide
/-- M4. -/
theorem test_load_bad_address : record (exec (.load 2 4) (machine [0, 0] 4)) =
    some { pc := 0, opcode := some .load, detail := .outOfBounds .mem .addr 4 } := by decide
theorem test_li : outcome (exec (.li 0 (-1)) (machine [0] 1)) = some ([-1], 0, 1, 1) := by decide
/-- M7. -/
theorem test_mov : outcome (exec (.mov 4 5) (machine [0, 0, 0, 0, 0, 9] 1)) = some ([0, 0, 0, 0, 9, 9], 0, 1, 1) := by decide
/-- M8. -/
theorem test_mov_bad_source : record (exec (.mov 5 6) (machine [0, 0] 4)) =
    some { pc := 0, opcode := some .mov, detail := .outOfBounds .reg .reg2 6 } := by decide
/-- M10, the first PUSH. -/
theorem test_push : outcome (exec (.push 0) (machine [10, 0] 8)) = some ([10, 0], 6, 1, 1) ∧ word 7 (exec (.push 0) (machine [10, 0] 8)) = some 10 := by
  decide
/-- M15. -/
theorem test_push_full : record (exec (.push 0) (machine [0, 0] 1)) =
    some { pc := 0, opcode := some .push, detail := .stackOverflow 0 } := by decide
/-- T3, the POP: the popped cell keeps its value. -/
theorem test_pop : outcome (exec (.pop 0) { machine [0, 0] 8 with mem := [(7, -77)], sp := 6 }) = some ([-77, 0], 7, 1, 1) ∧
    word 7 (exec (.pop 0) { machine [0, 0] 8 with mem := [(7, -77)], sp := 6 }) = some (-77) := by decide
/-- M12. -/
theorem test_pop_empty : record (exec (.pop 2) (machine [0, 0] 4)) =
    some { pc := 0, opcode := some .pop, detail := .stackUnderflow 3 } := by decide

/-! ### Control flow -/

/-- J1, the JMP. -/
theorem test_jmp : outcome (exec (.jmp 1000) (machine [0, 0] 4)) = some ([0, 0], 3, 1000, 1) := by decide
theorem test_b : outcome (exec (.b 0) (machine [0] 1)) = some ([0], 0, 0, 1) := by decide
/-- T5, taken. -/
theorem test_jz_taken : outcome (exec (.jz 0 3) (machine [0, 0] 1)) = some ([0, 0], 0, 3, 1) := by decide
/-- J6, the JZ: only 0 is zero. -/
theorem test_jz_int_min : outcome (exec (.jz 0 5) (machine [-2147483648] 1)) = some ([-2147483648], 0, 1, 1) := by decide
theorem test_bz_taken : outcome (exec (.bz 0 3) (machine [0, 0] 1)) = some ([0, 0], 0, 3, 1) := by decide
/-- J5, the JNZ: a negative value is not zero. -/
theorem test_jnz_taken : outcome (exec (.jnz 0 5) (machine [-1] 1)) = some ([-1], 0, 5, 1) := by decide
theorem test_bnz_not_taken : outcome (exec (.bnz 0 5) (machine [0] 1)) = some ([0], 0, 1, 1) := by decide
/-- J3, the JE: the target is exact. -/
theorem test_je_taken : outcome (exec (.je 0 1 2) (machine [0, 0, 0] 1)) = some ([0, 0, 0], 0, 2, 1) := by decide
/-- R167's example, not taken. -/
theorem test_je_not_taken : outcome (exec (.je 1 2 8) { machine [0, 4, 5] 1 with pc := 3 }) = some ([0, 4, 5], 0, 4, 1) := by decide
/-- R168's example, taken. -/
theorem test_jne_taken : outcome (exec (.jne 1 2 0) { machine [0, 4, 5] 1 with pc := 3 }) = some ([0, 4, 5], 0, 0, 1) := by decide
/-- J8. -/
theorem test_jne_bad_register : record (exec (.jne 0 2 0) (machine [0, 0] 4)) =
    some { pc := 0, opcode := some .jne, detail := .outOfBounds .reg .reg2 2 } := by decide

/-! ### Misc -/

theorem test_nop : outcome (exec .nop (machine [0] 1)) = some ([0], 0, 1, 1) := by decide
/-- T7. -/
theorem test_halt : after (exec .halt (machine [0, 0, 0] 4)) = some { machine [0, 0, 0] 4 with runState := .halted } := by decide

/-! ### The free shifter: an out-of-range count gives its answer and nothing else changes (U1) -/

theorem test_shl_free : exec (.shl 0 1 2) { harness 1 32 with cfg := { memorySize := 2, program := [], budget := 10, shiftOor := .free } } =
    .next { harness 1 32 with
      cfg := { memorySize := 2, program := [], budget := 10, shiftOor := .free }, regs := [1, 32, Config.freeShift .shl 1 32], pc := 1, executedCount := 1 } := rfl

/-! ### Memory -/

theorem test_memory_canonical :
    Memory.write 3 5 (Memory.write 1 7 []) = [(1, 7), (3, 5)] ∧ Memory.write 1 0 [(1, 7), (3, 5)] = [(3, 5)] ∧
    Memory.read 3 [(1, 7), (3, 5)] = 5 ∧ Memory.read 2 [(1, 7), (3, 5)] = 0 := by decide

theorem test_memory_wf :
    Memory.wf State.reset.mem = true ∧ Memory.wf [(3, 5), (1, 7)] = false ∧ Memory.wf [(1, 0)] = false ∧ Memory.wf [(1, 7), (1, 7)] = false := by
  decide

/-! ### The step -/

/-- From reset with nothing placed, the first step halts: the program is empty (E1, assumption 4). -/
theorem test_reset_halts : after (step State.reset) = some { State.reset with runState := .halted } := by decide

/-- The very next step after `withFetchWord` runs the word placed: here section 2.7's LI R2, #-5. -/
theorem test_fetch_word_runs :
    (after (step (State.reset.withFetchWord 192 0xFFFFFFFB0000000000000000000000000000000200000007))).map (fun t : State => (t.regs[(2 : Nat)]?, t.pc, t.executedCount)) =
      some (some (-5 : S32), (1 : U32), (1 : U64)) := by decide

/-- E3's second step: the budget comes before the end of the program. -/
theorem test_budget_before_end : after (step { machine [0] 1 with executedCount := 10, pc := 5 }) =
    some { machine [0] 1 with executedCount := 10, pc := 5, runState := .faulted,
                              fault := some { pc := 5, opcode := none, detail := .budgetExceeded 10 } } := by decide

theorem test_illegal_configurations_refused :
    refusal (step (machine [] 1)) = some .illegalRegisterCount ∧ refusal (step (machine [0] 0)) = some .illegalMemorySize ∧
    refusal (step { machine [0] 1 with cfg := { memorySize := 1, program := [], budget := 0, shiftOor := .mod32 } }) = some .illegalBudget ∧
    refusal (step { machine [0] 1 with cfg := { memorySize := 1, program := [0, 0x21], budget := 1, shiftOor := .mod32 } }) = some .illegalProgramWord := by
  decide

/-- M10's live stack, most recent first; R210's code numbers. -/
theorem test_host_reads :
    (snapshot? { machine [20, 0] 8 with mem := [(6, 20), (7, 10)], sp := 5, runState := .halted }) = some { registers := [20, 0], stack := [20, 10] } ∧
    (faultReport? (machine [0] 1)) = none ∧ faultCode none = 0 ∧ faultCode (some { pc := 0, opcode := none, detail := .budgetExceeded 1 }) = 5 := by decide

/-! ### Witnesses: for every statement with hypotheses, a case that meets them, each clause at the edge of its range

`m3` has three registers, so 2 is the last index and 3 the first bad one, and eight words, so 7 is the last address and 8 the first bad one; `live` is
a Running machine with a program at any place of its run. -/

/-- `x = [INT_MIN, -1, 0]`, eight words, `mem[7] = 5` pushed. -/
def m3 : State := { machine [-2147483648, -1, 0] 8 with mem := [(7, 5)], sp := 6 }

/-- `m3` with the stack pointer at `p`. -/
def m3At (p : U32) : State := { m3 with sp := p }

/-- 0 `LI R0, #-5`; 1 `PUSH R0`; 2 `POP R1`; 3 `JZ R2, @4294967295`; 4 `DIV R0, R2, R1`; 5 `HALT`. -/
def program : List InstrWord :=
  [0xFFFFFFFB0000000000000000000000000000000000000007, 0x8, 0x100000009] ++
  [0xFFFFFFFF0000000000000000000000020000000B, 0x1000000020000000000000004, 0x20]

/-- `m3` with the program, at `pc` with `count` executed of a budget of 10. -/
def live (pc : U32) (count : U64) : State :=
  { m3 with cfg := { memorySize := 8, program := program, budget := 10, shiftOor := .mod32 }, pc := pc, executedCount := count }

/-- The program decodes as its comment says. -/
theorem test_program_decodes : program.map (decodeTableWord 192 ·.toNat) =
    [some (.li 0 (-5)), some (.push 0), some (.pop 1), some (.jz 2 4294967295), some (.div 0 2 1), some .halt] := by decide

theorem inv_m3At (p : U32) (h : p.toNat < 8) : (m3At p).Inv :=
  ⟨(rfl : bootRefusal (m3At p) = bootRefusal m3).trans (show bootRefusal m3 = none by decide), rfl, rfl, h, Nat.zero_le _, ⟨nofun, nofun⟩⟩

theorem inv_m3 : m3.Inv := inv_m3At 6 (by decide)

theorem inv_live (pc : U32) (count : U64) (h : count.toNat ≤ 10) : (live pc count).Inv := by
  have hb : bootRefusal (live pc count) = bootRefusal (live 0 0) := rfl
  exact ⟨hb.trans (by decide), rfl, rfl, (by decide : 6 < 8), h, ⟨nofun, nofun⟩⟩

/-- Used slots equal, ignored slots not. -/
theorem witness_EncodingReproducesEveryUsedSlot :
    decode 0xFFFFFFFF0000000900000003000000020000000100000001#192 = .ok (.add 1 2 3) := rfl

/-- Every tag is spelled by some word. -/
theorem witness_EachTagDecodesToItsInstruction (op : Opcode) : ((BitVec.ofNat 192 op.tag).extractLsb' 0 32).toNat = op.tag := by
  cases op <;> decide

/-- A NOP with `reg1 = 4000000000` and the all-zero NOP; an ADD and the same ADD with other `addr` and `imm`. -/
theorem witness_IgnoredSlotsDoNotMatter :
    (((0 : InstrWord).extractLsb' 0 32).toNat = Opcode.nop.tag ∧
      (0xFFFFFFFF000000090000000800000007EE6B280000000000 : InstrWord).extractLsb' 0 32 = (0 : InstrWord).extractLsb' 0 32) ∧
    ((0x3000000020000000100000001 : InstrWord).extractLsb' 0 32).toNat = Opcode.add.tag ∧
    (∀ slot, Opcode.add.role slot ≠ .ignored →
      InstrWord.slot (0xFFFFFFFF0000000900000003000000020000000100000001 : InstrWord) slot = InstrWord.slot (0x3000000020000000100000001 : InstrWord) slot) := by
  refine ⟨by decide, by decide, fun slot h => ?_⟩
  cases slot <;> first | decide | exact absurd rfl h

/-- Tags 32 and 33, and a Running machine whose program holds a word of tag 33. -/
theorem witness_OnlyThirtyThreeTagsAreInstructions :
    ((0x20 : InstrWord).extractLsb' 0 32).toNat ≤ 32 ∧ 33 ≤ ((0x21 : InstrWord).extractLsb' 0 32).toNat ∧
    ({ m3 with cfg := { m3.cfg with program := [0x21] } } : State).runState = .running ∧
    (0x21 : InstrWord) ∈ ({ m3 with cfg := { m3.cfg with program := [0x21] } } : State).cfg.program := by
  refine ⟨by decide, by decide, rfl, ?_⟩
  exact List.mem_cons_self

/-- The premises of the clauses of a three-operand rule, at the last good and the first bad index. -/
def ThreeOperandPremises : Prop :=
  (m3.regs[(0 : U32).toNat]? = some (-2147483648) ∧ m3.regs[(1 : U32).toNat]? = some (-1) ∧ (2 : U32).toNat < m3.regs.length) ∧
  m3.regs.length ≤ (3 : U32).toNat ∧ m3.regs.length ≤ (4294967295 : U32).toNat

theorem witness_three_operands : ThreeOperandPremises := by
  unfold ThreeOperandPremises
  decide

theorem witness_AddSubMulWriteTheWrappedResult : ThreeOperandPremises := witness_three_operands
theorem witness_AndOrXorTestCombineBits : ThreeOperandPremises := witness_three_operands
theorem witness_CmpWritesTheDifference : ThreeOperandPremises := witness_three_operands

/-- `INT_MIN / -1`, a zero divisor with a good and with a bad destination, a good divisor with a bad destination, bad sources. -/
def DivisionPremises : Prop :=
  (m3.regs[(0 : U32).toNat]? = some (-2147483648) ∧ m3.regs[(1 : U32).toNat]? = some (-1) ∧ (-1 : S32).toInt ≠ 0 ∧ (2 : U32).toNat < m3.regs.length) ∧
  (m3.regs[(2 : U32).toNat]? = some 0 ∧ (0 : S32).toInt = 0) ∧ m3.regs.length ≤ (3 : U32).toNat

theorem witness_DivModTruncateOrFaultOnZero : DivisionPremises := by
  unfold DivisionPremises
  decide

/-- The premises of a two-operand and of an in-place rule. -/
def TwoOperandPremises : Prop :=
  (m3.regs[(0 : U32).toNat]? = some (-2147483648) ∧ (2 : U32).toNat < m3.regs.length) ∧ m3.regs.length ≤ (3 : U32).toNat

theorem witness_two_operands : TwoOperandPremises := by
  unfold TwoOperandPremises
  decide

theorem witness_NegAbsWriteTheSecondOperand : TwoOperandPremises := witness_two_operands
theorem witness_IncDecWorkInPlace : TwoOperandPremises := witness_two_operands
theorem witness_NotComplementsIntoTheSecondOperand : TwoOperandPremises := witness_two_operands

/-- Counts 0 and 31. -/
theorem witness_ShiftsByCountsInRange :
    ((machine [0, 31, 7] 1).regs[(0 : U32).toNat]? = some 0 ∧ 0 ≤ (0 : S32).toInt ∧ (0 : S32).toInt ≤ 31) ∧
    ((machine [0, 31, 7] 1).regs[(1 : U32).toNat]? = some 31 ∧ 0 ≤ (31 : S32).toInt ∧ (31 : S32).toInt ≤ 31) ∧
    ((machine [0, 31, 7] 1).regs[(2 : U32).toNat]? = some 7 ∧ (2 : U32).toNat < (machine [0, 31, 7] 1).regs.length) ∧
    (machine [0, 31, 7] 1).regs.length ≤ (3 : U32).toNat := by decide

/-- Counts 32 and -1, for the default and for the free shifter. -/
theorem witness_ShiftsByCountsOutOfRange :
    ((machine [32, -1, 7] 1).regs[(0 : U32).toNat]? = some 32 ∧ 32 ≤ (32 : S32).toInt) ∧
    ((machine [32, -1, 7] 1).regs[(1 : U32).toNat]? = some (-1) ∧ (-1 : S32).toInt < 0) ∧
    ((machine [32, -1, 7] 1).regs[(2 : U32).toNat]? = some 7 ∧ (2 : U32).toNat < (machine [32, -1, 7] 1).regs.length) ∧
    (machine [32, -1, 7] 1).cfg.shiftOor = .mod32 ∧
    ({ machine [32, -1, 7] 1 with cfg := { m3.cfg with shiftOor := .free } } : State).cfg.shiftOor = .free := by decide

/-- The last good and the first bad address and register. -/
theorem witness_LoadCopiesTheWord :
    ((7 : U32).toNat < m3.cfg.memorySize ∧ (2 : U32).toNat < m3.regs.length) ∧ m3.cfg.memorySize ≤ (8 : U32).toNat ∧ m3.regs.length ≤ (3 : U32).toNat := by
  decide

theorem witness_StoreWritesOneWord :
    (m3.regs[(2 : U32).toNat]? = some 0 ∧ (7 : U32).toNat < m3.cfg.memorySize ∧ Memory.wf m3.mem = true) ∧
    m3.regs.length ≤ (3 : U32).toNat ∧ m3.cfg.memorySize ≤ (8 : U32).toNat := by decide

theorem witness_LiLoadsTheImmediate : (2 : U32).toNat < m3.regs.length ∧ m3.regs.length ≤ (3 : U32).toNat := by decide

theorem witness_MovCopiesTheSecondOperandToTheFirst : TwoOperandPremises := witness_two_operands

/-- `sp` at 1 (the last push), at 7 (the empty stack) and at 0 (full). -/
def PushPremises : Prop :=
  (m3.regs[(2 : U32).toNat]? = some 0 ∧ Memory.wf m3.mem = true) ∧ (0 < (m3At 1).sp.toNat ∧ (m3At 1).sp.toNat < (m3At 1).cfg.memorySize) ∧
  (0 < (m3At 7).sp.toNat ∧ (m3At 7).sp.toNat < (m3At 7).cfg.memorySize) ∧ (m3At 0).sp.toNat = 0 ∧ m3.regs.length ≤ (3 : U32).toNat

theorem witness_PushWritesThenDecrements : PushPremises := by
  unfold PushPremises
  decide

/-- `sp` at 6 (one value left), at 0 (full) and at 7 (empty). -/
theorem witness_PopIncrementsThenReads :
    ((m3At 6).sp.toNat + 1 < (m3At 6).cfg.memorySize ∧ (m3At 0).sp.toNat + 1 < (m3At 0).cfg.memorySize) ∧
    (1 ≤ (m3At 7).cfg.memorySize ∧ (m3At 7).sp.toNat = (m3At 7).cfg.memorySize - 1) ∧
    (2 : U32).toNat < m3.regs.length ∧ m3.regs.length ≤ (3 : U32).toNat := by decide

/-- A register that is 0, one that is not, a bad one. -/
theorem witness_ZeroTestJumps :
    (m3.regs[(2 : U32).toNat]? = some 0 ∧ (0 : S32).toInt = 0) ∧ (m3.regs[(0 : U32).toNat]? = some (-2147483648) ∧ (-2147483648 : S32).toInt ≠ 0) ∧
    m3.regs.length ≤ (3 : U32).toNat := by decide

/-- Equal values (one register twice), unequal ones, a bad first and a bad second register. -/
theorem witness_EqualityJumps :
    (m3.regs[(1 : U32).toNat]? = some (-1) ∧ (-1 : S32).toInt = (-1 : S32).toInt) ∧
    (m3.regs[(2 : U32).toNat]? = some 0 ∧ (-1 : S32).toInt ≠ (0 : S32).toInt) ∧ m3.regs.length ≤ (3 : U32).toNat := by decide

/-- The HALT at index 5, with one instruction of budget left and with none. -/
theorem witness_HaltEndsTheRunInPlace :
    (live 5 9).runState = .running ∧ bootRefusal (live 5 9) = none ∧ (live 5 9).cfg.program[(5 : U32).toNat]? = some 0x20 ∧
    decode 0x20#192 = .ok .halt ∧ (live 5 9).executedCount.toNat < (live 5 9).cfg.budget.toNat ∧
    bootRefusal (live 5 10) = none ∧ (live 5 10).executedCount = (live 5 10).cfg.budget :=
  ⟨rfl, by decide, rfl, rfl, by decide, by decide, rfl⟩

theorem witness_SecondTagsBehaveAlike :
    (0 : U32).toNat < m3.regs.length ∧ (1 : U32).toNat < m3.regs.length ∧ (2 : U32).toNat < m3.regs.length := by decide

/-- Sums that reach `INT_MAX` and `INT_MIN` exactly, and 0 and 1 for NEG, ABS, INC, DEC. -/
theorem witness_ResultsThatFitAreExact :
    ((machine [2147483646, 1, -2147483647] 1).regs[(0 : U32).toNat]? = some 2147483646 ∧ (machine [2147483646, 1, -2147483647] 1).regs[(1 : U32).toNat]? = some 1 ∧
      (machine [2147483646, 1, -2147483647] 1).regs[(2 : U32).toNat]? = some (-2147483647)) ∧
    (2147483646 : S32).toInt + (1 : S32).toInt = 2147483647 ∧ (-2147483647 : S32).toInt - (1 : S32).toInt = -2147483648 ∧
    -(-2147483647 : S32).toInt = 2147483647 ∧ (2147483646 : S32).toInt * (1 : S32).toInt = 2147483646 := by decide

theorem witness_DivAndModFormADivision : DivisionPremises := witness_DivModTruncateOrFaultOnZero

theorem witness_PushThenPopRoundTrips : PushPremises := witness_PushWritesThenDecrements

/-- Next states of a register write, a store, a push, a pop, a taken jump, HALT and a fault: the premise of the frames. -/
def NextStatePremises : Prop :=
  (∃ t, exec (.add 0 1 2) m3 = .next t) ∧ (∃ t, exec (.store 0 7) m3 = .next t) ∧ (∃ t, exec (.push 0) (m3At 1) = .next t) ∧
  (∃ t, exec (.pop 0) (m3At 6) = .next t) ∧ (∃ t, exec (.jz 2 4294967295) m3 = .next t) ∧ (∃ t, exec .halt m3 = .next t) ∧
  (∃ t, exec (.pop 0) (m3At 7) = .next t ∧ t.runState = .faulted)

theorem witness_next_states : NextStatePremises := ⟨⟨_, rfl⟩, ⟨_, rfl⟩, ⟨_, rfl⟩, ⟨_, rfl⟩, ⟨_, rfl⟩, ⟨_, rfl⟩, ⟨_, rfl, rfl⟩⟩

theorem witness_RegistersChangeOnlyAtTheDestination : NextStatePremises := witness_next_states
theorem witness_MemoryChangesOnlyWhereStored : NextStatePremises := witness_next_states
theorem witness_InstructionsCompleteByOutcome : NextStatePremises := witness_next_states
theorem witness_OnlyPushAndPopMoveTheStackPointer :
    ((m3At 1).Inv ∧ ∃ t, exec (.push 0) (m3At 1) = .next t) ∧ ((m3At 6).Inv ∧ ∃ t, exec (.pop 0) (m3At 6) = .next t) :=
  ⟨⟨inv_m3At 1 (by decide), _, rfl⟩, ⟨inv_m3At 6 (by decide), _, rfl⟩⟩

/-- Steps that spend the budget, end the program, run each word of the program. -/
def StepPremises : Prop :=
  (∃ t, step (live 0 10) = .next t ∧ t.runState = .faulted) ∧ (∃ t, step (live 6 9) = .next t ∧ t.runState = .halted) ∧
  (∃ t, step (live 0 0) = .next t ∧ t.runState = .running) ∧ (∃ t, step (live 3 9) = .next t ∧ t.pc = 4294967295 ∧ t.runState = .running) ∧
  (∃ t, step (live 4 9) = .next t ∧ t.runState = .faulted) ∧ (∃ t, step (live 5 9) = .next t ∧ t.runState = .halted)

theorem witness_steps : StepPremises := ⟨⟨_, rfl, rfl⟩, ⟨_, rfl, rfl⟩, ⟨_, rfl, rfl⟩, ⟨_, rfl, rfl, rfl⟩, ⟨_, rfl, rfl⟩, ⟨_, rfl, rfl⟩⟩

theorem witness_CapacitiesAndConfigurationAreFixed : StepPremises := witness_steps
theorem witness_ThreeWaysToEndARun : StepPremises := witness_steps
theorem witness_FaultingStepsHaveNoOtherEffect : StepPremises := witness_steps

/-- A taken and an untaken jump with a good register. -/
theorem witness_JumpsChangeOnlyPcAndCount :
    (Claims.jumpTarget (.jz 2 7) = some 7 ∧ Claims.firstFault m3 (.jz 2 7) = none ∧ Claims.jumpTaken m3 (.jz 2 7)) ∧
    (Claims.jumpTarget (.je 0 1 7) = some 7 ∧ Claims.firstFault m3 (.je 0 1 7) = none ∧ ¬ Claims.jumpTaken m3 (.je 0 1 7)) := by
  refine ⟨⟨rfl, by decide, 0, rfl, by decide⟩, rfl, by decide, ?_⟩
  rintro ⟨v, w, hv, hw, h⟩
  cases hv
  cases hw
  exact absurd h (by decide)

/-- Two states that agree on the State Store and differ in everything else. -/
theorem witness_EffectsDependOnTheStateStoreAlone :
    let s' : State := { live 5 9 with runState := .faulted, fault := some { pc := 1, opcode := none, detail := .budgetExceeded 1 } }
    s'.regs = m3.regs ∧ s'.mem = m3.mem ∧ s'.sp = m3.sp ∧ s'.cfg.memorySize = m3.cfg.memorySize ∧ s'.cfg.shiftOor = m3.cfg.shiftOor ∧
      ∃ t, exec (.push 0) m3 = .next t :=
  ⟨rfl, rfl, rfl, rfl, rfl, _, rfl⟩

/-- The PUSH at index 1 with the last instruction of the budget. -/
theorem witness_StepRunsTheDecodedInstruction :
    (live 1 9).runState = .running ∧ bootRefusal (live 1 9) = none ∧ (live 1 9).executedCount.toNat < (live 1 9).cfg.budget.toNat ∧
    (live 1 9).cfg.program[(1 : U32).toNat]? = some 0x8 ∧ decode 0x8#192 = .ok (.push 0) :=
  ⟨rfl, by decide, by decide, rfl, rfl⟩

/-- The count at the budget and one below it. -/
theorem witness_BudgetExceededIsRaisedByTheStep :
    ((live 0 10).Inv ∧ (live 0 10).runState = .running ∧ (live 0 10).cfg.budget.toNat ≤ (live 0 10).executedCount.toNat) ∧
    ((live 0 9).Inv ∧ ∃ t, step (live 0 9) = .next t ∧ t.executedCount = 10) :=
  ⟨⟨inv_live 0 10 (by decide), rfl, by decide⟩, inv_live 0 9 (by decide), _, rfl, rfl⟩

/-- `pc` at the program's length and at the largest index. -/
theorem witness_EndOfProgramHalts :
    (live 6 9).runState = .running ∧ bootRefusal (live 6 9) = none ∧ (live 6 9).executedCount.toNat < (live 6 9).cfg.budget.toNat ∧
    (live 6 9).cfg.program.length ≤ (live 6 9).pc.toNat ∧ (live 4294967295 9).cfg.program.length ≤ (live 4294967295 9).pc.toNat :=
  ⟨rfl, by decide, by decide, by decide, by decide⟩

theorem witness_RunningStatesAlwaysStep :
    ((live 0 10).Inv ∧ (live 0 10).runState = .running) ∧ ({ m3 with runState := .halted } : State).runState ≠ .running :=
  ⟨⟨inv_live 0 10 (by decide), rfl⟩, by decide⟩

theorem witness_FaultedIsTerminal :
    ({ m3 with runState := .faulted } : State).runState = .faulted ∧ (live 0 0).Inv ∧ ∃ t, step (live 0 0) = .next t :=
  ⟨rfl, inv_live 0 0 (by decide), _, rfl⟩

/-- Each ground for a refusal, at the first value outside the range. -/
theorem witness_IllegalConfigurationsAreRefused :
    (machine [] 1).regs.length = 0 ∧ 4294967296 < (State.construct 4294967297 resetConfig).regs.length ∧
    (machine [0] 0).cfg.memorySize = 0 ∧ 4294967296 < (machine [0] 4294967297).cfg.memorySize ∧
    4294967295 < ({ resetConfig with program := List.replicate 4294967296 0 } : Config).program.length ∧
    (machine [0] 1).runState = .running ∧ bootRefusal (machine [0] 4294967296) = none := by
  refine ⟨rfl, ?_, rfl, by decide, ?_, rfl, by decide⟩
  · rw [State.construct_regs, List.length_replicate]
    decide
  · show 4294967295 < (List.replicate 4294967296 (0 : InstrWord)).length
    rw [List.length_replicate]
    decide

/-- A first, a second and no failing check. -/
theorem witness_FirstFailingCheckIsReported :
    m3.Inv ∧ m3.runState = .running ∧ Claims.firstFault m3 (.add 3 4 5) = some (.outOfBounds .reg .reg1 3) ∧
    Claims.firstFault m3 (.div 0 2 9) = some (.divisionByZero 2) ∧ Claims.firstFault m3 (.div 0 1 2) = none :=
  ⟨inv_m3, rfl, by decide, by decide, by decide⟩

/-- A fall-through and a jump to the largest index, both with the last instruction of the budget. -/
theorem witness_CountersNeverWrap :
    ((live 0 9).Inv ∧ ∃ t, step (live 0 9) = .next t ∧ t.runState = .running) ∧
    ((live 3 9).Inv ∧ ∃ t, step (live 3 9) = .next t ∧ t.runState = .running ∧ t.pc = 4294967295) :=
  ⟨⟨inv_live 0 9 (by decide), _, rfl, rfl⟩, inv_live 3 9 (by decide), _, rfl, rfl, rfl⟩

/-- Both ends of both capacities. -/
theorem witness_ConstructionGivesTheResetState :
    (1 ≤ 1 ∧ 1 ≤ 4294967296 ∧ 1 ≤ ({ resetConfig with memorySize := 1 } : Config).memorySize) ∧
    ({ resetConfig with memorySize := 4294967296 } : Config).memorySize ≤ 4294967296 := by decide

theorem witness_ConstructionMeetsTheInvariant : bootRefusal State.reset = none ∧ bootRefusal (State.construct 1 { resetConfig with memorySize := 1 }) = none := by
  decide

theorem witness_EveryStepKeepsTheInvariant :
    ((live 1 9).Inv ∧ ∃ t, step (live 1 9) = .next t) ∧ ((live 0 10).Inv ∧ ∃ t, step (live 0 10) = .next t) :=
  ⟨⟨inv_live 1 9 (by decide), _, rfl⟩, inv_live 0 10 (by decide), _, rfl⟩

theorem witness_EveryRunEndsWithinTheBudget :
    ((live 0 10).Inv ∧ (live 0 10).runState = .running) ∧ ((live 0 0).Inv ∧ (live 0 0).runState = .running) ∧
    bootRefusal (State.construct 1 { resetConfig with budget := 1 }) = none :=
  ⟨⟨inv_live 0 10 (by decide), rfl⟩, ⟨inv_live 0 0 (by decide), rfl⟩, by decide⟩

/-- A Halted and a Running machine; the last push; the last pop. -/
theorem witness_SnapshotListsTheLiveStack :
    ({ m3 with runState := .halted } : State).runState = .halted ∧ m3.sp.toNat + 1 + 0 < m3.cfg.memorySize ∧ m3.runState ≠ .halted ∧
    ((m3At 1).Inv ∧ m3.regs[(2 : U32).toNat]? = some 0 ∧ 0 < (m3At 1).sp.toNat ∧ ∃ t, exec (.push 2) (m3At 1) = .next t) ∧
    ((m3At 6).Inv ∧ (2 : U32).toNat < m3.regs.length ∧ (m3At 6).sp.toNat + 1 < (m3At 6).cfg.memorySize ∧ ∃ t, exec (.pop 2) (m3At 6) = .next t) :=
  ⟨rfl, by decide, by decide, ⟨inv_m3At 1 (by decide), rfl, by decide, _, rfl⟩, inv_m3At 6 (by decide), by decide, by decide, _, rfl⟩

end Sys2Proof.Tests
end

section
/-! PROOFS of the control-flow family (`43_control_flow.md`). A jump is settled by the shape it is made of (no register, one register tested, two
registers compared): the model's test of register values is tied to the spec's condition on numbers, and one lemma per shape says when `pc` moves. -/

namespace Sys2Proof.Machine

open Sys2Proof.Claims

/-! ### The tests of the conditional jumps, as conditions on numbers (R163 to R168) -/

@[simp] theorem isZero_iff (a : S32) : isZero a = true ↔ a.toInt = 0 := by
  simp [isZero, ← BitVec.toInt_inj]

@[simp] theorem isNonZero_iff (a : S32) : isNonZero a = true ↔ a.toInt ≠ 0 := by
  simp [isNonZero, ← BitVec.toInt_inj]

@[simp] theorem areEqual_iff (a b : S32) : areEqual a b = true ↔ a.toInt = b.toInt := by
  simp [areEqual, ← BitVec.toInt_inj]

@[simp] theorem areUnequal_iff (a b : S32) : areUnequal a b = true ↔ a.toInt ≠ b.toInt := by
  simp [areUnequal, ← BitVec.toInt_inj]

/-! ### No failing check -/

/-- No fault is reported exactly when every check of the instruction passes. -/
theorem firstFault_eq_none_iff (s : State) (i : Instr) : firstFault s i = none ↔ ∀ c ∈ faultChecks s i, c.1 = false := by
  simp [firstFault]

@[simp] theorem badReg_fst_eq_false_iff (s : State) (slot : Slot) (r : U32) : (badReg s slot r).1 = false ↔ r.toNat < s.regs.length := by
  simp [badReg]

/-- An instruction whose one check is of a register has no fault only with that register in range. -/
theorem reg_lt_of_firstFault_eq_none {s : State} {i : Instr} {r : U32} (hc : faultChecks s i = [badReg s .reg1 r])
    (h : firstFault s i = none) : r.toNat < s.regs.length := by
  simpa [hc] using (firstFault_eq_none_iff s i).1 h

/-- An instruction whose two checks are of registers has no fault only with both in range. -/
theorem regs_lt_of_firstFault_eq_none {s : State} {i : Instr} {r q : U32} (hc : faultChecks s i = [badReg s .reg1 r, badReg s .reg2 q])
    (h : firstFault s i = none) : r.toNat < s.regs.length ∧ q.toNat < s.regs.length := by
  simpa [hc] using (firstFault_eq_none_iff s i).1 h

/-! ### The shapes of a jump -/

/-- The outcome `o` of a jump begun in `s`: a redirect to `addr` where `taken` holds, else a fall-through that wrote nothing (R160). -/
def RedirectsIff (taken : Prop) (addr : U32) (s : State) (o : Host.Outcome State Fault Refusal) : Prop :=
  (taken → o = .next (s.redirect addr)) ∧ (¬ taken → o = .next s.advance)

theorem RedirectsIff.of_taken {taken : Prop} {addr : U32} {s : State} {o : Host.Outcome State Fault Refusal} (h : taken)
    (e : o = .next (s.redirect addr)) : RedirectsIff taken addr s o :=
  ⟨fun _ => e, fun hn => absurd h hn⟩

theorem RedirectsIff.of_not_taken {taken : Prop} {addr : U32} {s : State} {o : Host.Outcome State Fault Refusal} (h : ¬ taken)
    (e : o = .next s.advance) : RedirectsIff taken addr s o :=
  ⟨fun ht => absurd ht h, fun _ => e⟩

/-- A jump on one register in range redirects exactly where the register's number meets the condition its test stands for. -/
theorem redirectsIff_branchIf {op : Opcode} {test : S32 → Bool} {p : Int → Prop} {r addr : U32} {s : State}
    (hp : ∀ a, test a = true ↔ p a.toInt) (hr : r.toNat < s.regs.length) :
    RedirectsIff (∃ v, s.regs[r.toNat]? = some v ∧ p v.toInt) addr s (complete op s (branchIf test r addr s)) := by
  rcases branchIf_cases test r addr s with ⟨hle, _⟩ | ⟨a, ha, ⟨ht, e⟩ | ⟨ht, e⟩⟩
  · omega
  · exact .of_taken ⟨a, ha, (hp a).1 ht⟩ (by rw [e, complete_redirect])
  · have hn : ¬ p a.toInt := by simp [← hp, ht]
    exact .of_not_taken (by simpa [ha] using hn) (by rw [e, complete_commit])

/-- A jump on two registers in range redirects exactly where their numbers meet the condition its test stands for. -/
theorem redirectsIff_branchIf2 {op : Opcode} {test : S32 → S32 → Bool} {p : Int → Int → Prop} {r q addr : U32} {s : State}
    (hp : ∀ a b, test a b = true ↔ p a.toInt b.toInt) (h : r.toNat < s.regs.length ∧ q.toNat < s.regs.length) :
    RedirectsIff (∃ v w, s.regs[r.toNat]? = some v ∧ s.regs[q.toNat]? = some w ∧ p v.toInt w.toInt) addr s
      (complete op s (branchIf2 test r q addr s)) := by
  rcases branchIf2_cases test r q addr s with ⟨hle, _⟩ | ⟨_, hle, _⟩ | ⟨a, b, ha, hb, ⟨ht, e⟩ | ⟨ht, e⟩⟩
  · omega
  · omega
  · exact .of_taken ⟨a, b, ha, hb, (hp a b).1 ht⟩ (by rw [e, complete_redirect])
  · have hn : ¬ p a.toInt b.toInt := by simp [← hp, ht]
    exact .of_not_taken (by simpa [ha, hb] using hn) (by rw [e, complete_commit])

/-- Every jump with good register operands redirects to its target exactly where the spec's condition holds. -/
theorem exec_jump_redirectsIff {i : Instr} {addr : U32} {s : State} (ht : jumpTarget i = some addr) (hf : firstFault s i = none) :
    RedirectsIff (jumpTaken s i) addr s (exec i s) := by
  cases i with
  | jmp a | b a => cases ht; exact .of_taken trivial rfl
  | jz r a | bz r a => cases ht; exact redirectsIff_branchIf (p := (· = 0)) isZero_iff (reg_lt_of_firstFault_eq_none rfl hf)
  | jnz r a | bnz r a => cases ht; exact redirectsIff_branchIf (p := (· ≠ 0)) isNonZero_iff (reg_lt_of_firstFault_eq_none rfl hf)
  | je r q a => cases ht; exact redirectsIff_branchIf2 (p := (· = ·)) areEqual_iff (regs_lt_of_firstFault_eq_none rfl hf)
  | jne r q a => cases ht; exact redirectsIff_branchIf2 (p := (· ≠ ·)) areUnequal_iff (regs_lt_of_firstFault_eq_none rfl hf)
  | _ => cases ht

/-- Settles O35: `State.redirect` and `State.advance` change `pc` and the count only, and a jump ends in one of the two. -/
theorem jumpsChangeOnlyPcAndCount : Obligations.JumpsChangeOnlyPcAndCount := by
  intro i addr s ht hf
  exact exec_jump_redirectsIff ht hf

end Sys2Proof.Machine
end

section
/-! PROOFS of the execution-engine family (`45_execution_engine.md`). A step can fail to answer a next state only where an evaluation is stuck, and
only the stack primitives get stuck, with `sp` outside memory (`10_state.md` R28): so one lemma per operation that it is not stuck, and totality of
`exec`, `runningStep` and `step` follows. -/

namespace Sys2Proof.Machine

variable {s : State}

/-! ### Evaluations that are not stuck -/

/-- The evaluation ends in one of the spec's four outcomes (R192). -/
def Evaluation.NotStuck (e : Evaluation) : Prop := ∀ r, e ≠ .stuck r

theorem Evaluation.NotStuck.raise (d : FaultDetail) : (Evaluation.raise d).NotStuck := nofun

theorem Evaluation.NotStuck.redirect (addr : U32) : (Evaluation.redirect addr).NotStuck := nofun

theorem Evaluation.NotStuck.commit (t : State) : (Evaluation.commit t).NotStuck := nofun

/-- Each of the four outcomes completes to a next state (R193). -/
theorem complete_exists_next {e : Evaluation} (op : Opcode) (s : State) (h : e.NotStuck) : ∃ t, complete op s e = .next t := by
  cases e with
  | raise | halt | redirect | commit => exact ⟨_, rfl⟩
  | stuck r => exact absurd rfl (h r)

/-! ### The accessors -/

theorem regRead_notStuck {slot : Slot} {i : U32} {k : S32 → Evaluation} (hk : ∀ v, (k v).NotStuck) : (regRead slot i s k).NotStuck := by
  rcases regRead_cases slot i s k with ⟨v, _, e⟩ | ⟨_, e⟩ <;> rw [e]
  · exact hk v
  · exact .raise _

theorem regWrite_notStuck {slot : Slot} {i : U32} {v : S32} : (regWrite slot i v s).NotStuck := by
  rcases regWrite_cases slot i v s with ⟨_, e⟩ | ⟨_, e⟩ <;> rw [e]
  · exact .commit _
  · exact .raise _

theorem memRead_notStuck {a : U32} {k : S32 → Evaluation} (hk : ∀ v, (k v).NotStuck) : (memRead a s k).NotStuck := by
  rcases memRead_cases a s k with ⟨_, e⟩ | ⟨_, e⟩ <;> rw [e]
  · exact hk _
  · exact .raise _

theorem memWrite_notStuck {a : U32} {v : S32} : (memWrite a v s).NotStuck := by
  rcases memWrite_cases a v s with ⟨_, e⟩ | ⟨_, e⟩ <;> rw [e]
  · exact .commit _
  · exact .raise _

theorem pushWord_notStuck {v : S32} (hsp : s.sp.toNat < s.cfg.memorySize) : (pushWord v s).NotStuck := by
  rcases pushWord_cases v s with ⟨_, e⟩ | ⟨_, _, e⟩ | ⟨_, hle, _⟩
  · exact e ▸ .raise _
  · exact e ▸ .commit _
  · omega

theorem popWord_notStuck {k : S32 → State → Evaluation} (hsp : s.sp.toNat < s.cfg.memorySize) (hk : ∀ v t, (k v t).NotStuck) :
    (popWord s k).NotStuck := by
  rcases popWord_cases s k with ⟨_, e⟩ | ⟨_, e⟩ | ⟨hlt, _⟩
  · exact e ▸ .raise _
  · exact e ▸ hk _ _
  · omega

/-! ### The shapes -/

theorem branch_notStuck {taken : Bool} {addr : U32} : (branch taken addr s).NotStuck := by
  cases taken
  · exact .commit s
  · exact .redirect addr

theorem binary_notStuck {f : S32 → S32 → S32} {r1 r2 r3 : U32} : (binary f r1 r2 r3 s).NotStuck :=
  regRead_notStuck fun _ => regRead_notStuck fun _ => regWrite_notStuck

theorem division_notStuck {f : S32 → S32 → S32} {r1 r2 r3 : U32} : (division f r1 r2 r3 s).NotStuck := by
  refine regRead_notStuck fun a => regRead_notStuck fun b => ?_
  split
  · exact .raise _
  · exact regWrite_notStuck

theorem unary_notStuck {f : S32 → S32} {r1 r2 : U32} : (unary f r1 r2 s).NotStuck :=
  regRead_notStuck fun _ => regWrite_notStuck

theorem inPlace_notStuck {f : S32 → S32} {r1 : U32} : (inPlace f r1 s).NotStuck :=
  regRead_notStuck fun _ => regWrite_notStuck

theorem branchIf_notStuck {test : S32 → Bool} {r1 addr : U32} : (branchIf test r1 addr s).NotStuck :=
  regRead_notStuck fun _ => branch_notStuck

theorem branchIf2_notStuck {test : S32 → S32 → Bool} {r1 r2 addr : U32} : (branchIf2 test r1 r2 addr s).NotStuck :=
  regRead_notStuck fun _ => regRead_notStuck fun _ => branch_notStuck

/-! ### The instruction and the step -/

/-- Every instruction answers a next state where `sp` is an address of `mem`. -/
theorem exec_exists_next (i : Instr) (hsp : s.sp.toNat < s.cfg.memorySize) : ∃ t, exec i s = .next t := by
  cases i with
  | nop | halt | jmp | b => exact ⟨_, rfl⟩
  | add | sub | mul | and | or | xor | shl | shr | cmp | test => exact complete_exists_next _ _ binary_notStuck
  | div | mod => exact complete_exists_next _ _ division_notStuck
  | neg | abs | not => exact complete_exists_next _ _ unary_notStuck
  | inc | dec => exact complete_exists_next _ _ inPlace_notStuck
  | jz | bz | jnz | bnz => exact complete_exists_next _ _ branchIf_notStuck
  | je | jne => exact complete_exists_next _ _ branchIf2_notStuck
  | li => exact complete_exists_next _ _ regWrite_notStuck
  | mov => exact complete_exists_next _ _ (regRead_notStuck fun _ => regWrite_notStuck)
  | load => exact complete_exists_next _ _ (memRead_notStuck fun _ => regWrite_notStuck)
  | store => exact complete_exists_next _ _ (regRead_notStuck fun _ => memWrite_notStuck)
  | push => exact complete_exists_next _ _ (regRead_notStuck fun _ => pushWord_notStuck hsp)
  | pop => exact complete_exists_next _ _ (popWord_notStuck hsp fun _ _ => regWrite_notStuck)

/-- A Running state of the hardware has a next state, whichever of the checks before fetch fires (R191). -/
theorem step_exists_next (hs : s.Inv) (hr : s.runState = .running) : ∃ t, step s = .next t := by
  rw [step_of_running hr hs.boots]
  rcases runningStep_cases hs.boots with ⟨_, e⟩ | ⟨_, _, e⟩ | ⟨_, i, _, _, _, e⟩
  · exact ⟨_, e⟩
  · exact ⟨_, e⟩
  · rw [e]
    exact exec_exists_next i hs.spInMemory

/-- Settles O41: totality is `step_exists_next`, uniqueness is that `step` is a function, and a next state comes from Running only. -/
theorem runningStatesAlwaysStep : Obligations.RunningStatesAlwaysStep := by
  refine ⟨fun s hs hr => ?_, fun s hr ⟨_, ht⟩ => hr (step_next ht).1, fun _ _ => ⟨rfl, rfl, rfl⟩⟩
  obtain ⟨t, ht⟩ := step_exists_next hs hr
  exact ⟨t, ht, fun u hu => Host.Outcome.next.inj (hu.symm.trans ht)⟩

end Sys2Proof.Machine
end

section
/-! PROOFS of the reset family (`70_reset_and_hazards.md`). The configuration and the length of the register bank are kept by each next state an
instruction can answer (`Answers`), hence by every step. -/

namespace Sys2Proof.Machine

variable {op : Opcode} {s t : State}

/-- No named update of the state touches the configuration. -/
theorem Answers.cfg_eq (h : Answers op s t) : t.cfg = s.cfg := by
  cases h <;> rfl

/-- A write to a register replaces an entry of the bank, and nothing else touches the bank. -/
theorem Answers.regs_length_eq (h : Answers op s t) : t.regs.length = s.regs.length := by
  cases h with
  | writesReg | pops => exact List.length_set
  | faults | halts | jumps | fallsThrough | stores | pushes => rfl

theorem step_cfg_eq (h : step s = .next t) : t.cfg = s.cfg := by
  obtain ⟨_, rfl⟩ | ⟨_, _, rfl⟩ | ⟨_, _, _, _, _, he⟩ := step_next_cases h
  · exact s.takeFault_cfg _ _
  · exact s.halt_cfg
  · exact (exec_answers he).cfg_eq

theorem step_regs_length_eq (h : step s = .next t) : t.regs.length = s.regs.length := by
  obtain ⟨_, rfl⟩ | ⟨_, _, rfl⟩ | ⟨_, _, _, _, _, he⟩ := step_next_cases h
  · rw [State.takeFault_regs]
  · rw [State.halt_regs]
  · exact (exec_answers he).regs_length_eq

/-- Settles O34: `MEMORY_SIZE` is part of the configuration, so it is kept with it. -/
theorem capacitiesAndConfigurationAreFixed : Obligations.CapacitiesAndConfigurationAreFixed := by
  intro s t h
  have hcfg : t.cfg = s.cfg := step_cfg_eq h
  exact ⟨step_regs_length_eq h, congrArg Config.memorySize hcfg, hcfg⟩

end Sys2Proof.Machine
end

section
/-! PROOFS of the encoding statements (`30_encoding.md`). A word decodes through its opcode alone, so every statement about a word with a legal tag is
one about `Opcode.instr`; what that function keeps of the slots is said once, by `keptSlot`. -/

namespace Sys2Proof

open Sys2Proof.Machine Sys2Proof.Claims

/-! ### The slots an opcode keeps (R85, R87) -/

/-- The value of a slot after the opcode's ignored slots are dropped: 0 where it is ignored, as R91 writes it. -/
def Opcode.keptSlot (op : Opcode) (f : Slot → BitVec 32) (slot : Slot) : BitVec 32 := if op.role slot = .ignored then 0 else f slot

/-- The instruction of an opcode with slots given by name. -/
def Opcode.instrOf (op : Opcode) (f : Slot → BitVec 32) : Instr := op.instr (f .reg1) (f .reg2) (f .reg3) (f .addr) (f .imm)

@[simp] theorem Opcode.opcode_instrOf (op : Opcode) (f : Slot → BitVec 32) : (op.instrOf f).opcode = op := by
  cases op <;> rfl

theorem Opcode.slots_instrOf (op : Opcode) (f : Slot → BitVec 32) :
    (op.instrOf f).slots = (op.keptSlot f .reg1, op.keptSlot f .reg2, op.keptSlot f .reg3, op.keptSlot f .addr, op.keptSlot f .imm) := by
  cases op <;> rfl

/-- An instruction is made of its kept slots: what its opcode ignores does not enter it. -/
theorem Opcode.instrOf_keptSlot (op : Opcode) (f : Slot → BitVec 32) : op.instrOf (op.keptSlot f) = op.instrOf f := by
  cases op <;> rfl

theorem Opcode.instrOf_congr {op : Opcode} {f g : Slot → BitVec 32} (h : ∀ slot, op.role slot ≠ .ignored → f slot = g slot) :
    op.instrOf f = op.instrOf g := by
  have hk : op.keptSlot f = op.keptSlot g := by
    funext slot
    by_cases hi : op.role slot = .ignored
    · simp [keptSlot, hi]
    · simp [keptSlot, hi, h slot hi]
  rw [← op.instrOf_keptSlot f, hk, op.instrOf_keptSlot g]

/-- An instruction is the one of its opcode and its slots. -/
theorem Instr.instr_opcode_slots (i : Instr) : i.opcode.instr i.slots.1 i.slots.2.1 i.slots.2.2.1 i.slots.2.2.2.1 i.slots.2.2.2.2 = i := by
  cases i <;> rfl

/-! ### Decoding and encoding through the opcode (R82, R84, R88) -/

/-- A word with the tag of an opcode decodes to that opcode with the word's slots. -/
theorem decode_of_tag {w : InstrWord} {op : Opcode} (h : (InstrWord.opcode w).toNat = op.tag) : decode w = .ok (op.instrOf (InstrWord.slot w)) := by
  rw [decode, h, Opcode.ofTag_tag]
  rfl

/-- A word that decodes has the tag of some opcode, and the instruction is the one of that opcode with the word's slots. -/
theorem decode_eq_ok {w : InstrWord} {i : Instr} (h : decode w = .ok i) :
    ∃ op : Opcode, (InstrWord.opcode w).toNat = op.tag ∧ i = op.instrOf (InstrWord.slot w) := by
  rcases decode_cases w with ⟨op, ht, e⟩ | ⟨_, e⟩
  · exact ⟨op, ht.symm, Except.ok.inj (h.symm.trans e)⟩
  · rw [e] at h
    cases h

/-- A word is rejected, with its tag, exactly from tag 33 on. -/
theorem decode_of_33_le {w : InstrWord} (h : 33 ≤ (InstrWord.opcode w).toNat) : decode w = .error (.unknownOpcode (InstrWord.opcode w)) := by
  rcases decode_cases w with ⟨op, ht, _⟩ | ⟨_, e⟩
  · have := op.tag_lt
    omega
  · exact e

theorem exists_decode_eq_ok_iff (w : InstrWord) : (∃ i, decode w = .ok i) ↔ (InstrWord.opcode w).toNat ≤ 32 := by
  rcases decode_cases w with ⟨op, ht, e⟩ | ⟨hn, e⟩
  · have := op.tag_lt
    exact iff_of_true ⟨_, e⟩ (by omega)
  · exact iff_of_false (by simp [e]) (by omega)

@[simp] theorem opcode_encode (i : Instr) : InstrWord.opcode (encode i) = BitVec.ofNat 32 i.opcode.tag := by
  simp [encode]

theorem slot_encode_instrOf (op : Opcode) (f : Slot → BitVec 32) (slot : Slot) :
    InstrWord.slot (encode (op.instrOf f)) slot = op.keptSlot f slot := by
  rw [encode, op.slots_instrOf]
  cases slot <;> simp [InstrWord.slot]

/-- Settles O1: the word of `i` carries the tag of its opcode, and each of its slots. -/
theorem decodeOfEncodeIsTheInstruction : Obligations.DecodeOfEncodeIsTheInstruction := by
  intro i
  have htag : Opcode.ofTag? (InstrWord.opcode (encode i)).toNat = some i.opcode := Laws.EncodeTag.of_encode i i.opcode.tag_lt
  rw [decode, htag]
  simpa [encode] using i.instr_opcode_slots

/-- Settles O2: the word decodes through its opcode, whose kept slots are the slots of the encoding. -/
theorem encodingReproducesEveryUsedSlot : Obligations.EncodingReproducesEveryUsedSlot := by
  intro w i h
  obtain ⟨op, ht, rfl⟩ := decode_eq_ok h
  refine ⟨?_, fun slot => ?_⟩
  · change InstrWord.opcode (encode _) = InstrWord.opcode w
    rw [opcode_encode, op.opcode_instrOf, ← ht, BitVec.ofNat_toNat, BitVec.setWidth_eq]
  · rw [op.opcode_instrOf, slot_encode_instrOf, Opcode.keptSlot]

/-- The tag of an opcode spells that opcode's instruction. -/
theorem spelledBy_instr (op : Opcode) : SpelledBy op.tag (fun r1 r2 r3 a v => op.instr r1 r2 r3 a v) := fun _ h => decode_of_tag h

/-- Settles O3: one tag per opcode, in tag order. -/
theorem eachTagDecodesToItsInstruction : Obligations.EachTagDecodesToItsInstruction :=
  ⟨spelledBy_instr .nop, spelledBy_instr .add, spelledBy_instr .sub, spelledBy_instr .mul, spelledBy_instr .div, spelledBy_instr .store,
    spelledBy_instr .load, spelledBy_instr .li, spelledBy_instr .push, spelledBy_instr .pop, spelledBy_instr .jmp, spelledBy_instr .jz,
    spelledBy_instr .jnz, spelledBy_instr .mov, spelledBy_instr .je, spelledBy_instr .jne, spelledBy_instr .and, spelledBy_instr .or,
    spelledBy_instr .xor, spelledBy_instr .not, spelledBy_instr .shl, spelledBy_instr .shr, spelledBy_instr .cmp, spelledBy_instr .test,
    spelledBy_instr .b, spelledBy_instr .bz, spelledBy_instr .bnz, spelledBy_instr .neg, spelledBy_instr .abs, spelledBy_instr .mod,
    spelledBy_instr .inc, spelledBy_instr .dec, spelledBy_instr .halt⟩

/-- Settles O4: the two words carry one tag, and the slots it keeps are equal. -/
theorem ignoredSlotsDoNotMatter : Obligations.IgnoredSlotsDoNotMatter := by
  intro w w' op ht hop hslots
  have hd : decode w = .ok (op.instrOf (InstrWord.slot w)) := decode_of_tag ht
  have hd' : decode w' = .ok (op.instrOf (InstrWord.slot w')) := decode_of_tag ((congrArg BitVec.toNat hop).trans ht)
  exact ⟨by rw [hd', hd, Opcode.instrOf_congr hslots], _, hd, op.opcode_instrOf _⟩

/-- Settles O6: each word is evaluated by the decoder. -/
theorem workedEncodingsDecode : Obligations.WorkedEncodingsDecode := ⟨rfl, rfl, rfl, rfl, rfl, rfl⟩

end Sys2Proof
end

section
/-! PROOFS of the instruction rules: arithmetic, bitwise, data movement, jumps, miscellaneous (`40_arithmetic.md` to `44_misc.md`). One lemma per
operand shape says every outcome of the completed shape in the words of the claims; an opcode's rule is its shape at its own function. -/

namespace Sys2Proof.Machine

open Sys2Proof.Claims

/-! ### What the shapes evaluate to, case by case

Faults in the order of the checks (`60_exceptions.md` R211), then the result. -/

variable {s : State} {a : S32}

theorem getElem?_regs_of_lt {r : U32} (h : r.toNat < s.regs.length) : ∃ a, s.regs[r.toNat]? = some a := ⟨_, List.getElem?_eq_getElem h⟩

theorem lt_of_getElem?_regs {r : U32} (h : s.regs[r.toNat]? = some a) : r.toNat < s.regs.length := (List.getElem?_eq_some_iff.1 h).1

/-- A checked read of an existing register goes on, with whatever it holds. -/
theorem regRead_of_lt {slot : Slot} {r : U32} {k : S32 → Evaluation} (h : r.toNat < s.regs.length) :
    ∃ a, s.regs[r.toNat]? = some a ∧ regRead slot r s k = k a := by
  obtain ⟨a, ha⟩ := getElem?_regs_of_lt h
  exact ⟨a, ha, regRead_of_some ha⟩

/-- The outcomes of a completed rule `x[reg3] <- f(x[reg1], x[reg2])`, as `ThreeOperandRule` lists them. -/
theorem complete_binary (op : Opcode) (f : S32 → S32 → S32) (s : State) (r1 r2 r3 : U32) :
    (∀ a b, s.regs[r1.toNat]? = some a → s.regs[r2.toNat]? = some b → r3.toNat < s.regs.length →
      complete op s (binary f r1 r2 r3 s) = .next (afterReg s r3 (f a b))) ∧
    (s.regs.length ≤ r1.toNat → complete op s (binary f r1 r2 r3 s) = .next (faultedWith s op (.outOfBounds .reg .reg1 r1))) ∧
    (r1.toNat < s.regs.length → s.regs.length ≤ r2.toNat →
      complete op s (binary f r1 r2 r3 s) = .next (faultedWith s op (.outOfBounds .reg .reg2 r2))) ∧
    (r1.toNat < s.regs.length → r2.toNat < s.regs.length → s.regs.length ≤ r3.toNat →
      complete op s (binary f r1 r2 r3 s) = .next (faultedWith s op (.outOfBounds .reg .reg3 r3))) := by
  refine ⟨fun a b h1 h2 h3 => ?_, fun h1 => ?_, fun h1 h2 => ?_, fun h1 h2 h3 => ?_⟩ <;> unfold binary
  · rw [regRead_of_some h1, regRead_of_some h2, regWrite_of_lt h3]
    rfl
  · rw [regRead_of_le h1]
    rfl
  · obtain ⟨a, _, e⟩ := regRead_of_lt h1
    rw [e, regRead_of_le h2]
    rfl
  · obtain ⟨a, _, e1⟩ := regRead_of_lt h1
    obtain ⟨b, _, e2⟩ := regRead_of_lt h2
    rw [e1, e2, regWrite_of_le h3]
    rfl

theorem toInt_eq_zero_iff {b : S32} : b.toInt = 0 ↔ b = 0 := by
  simp [← BitVec.toInt_inj]

/-- The outcomes of a completed division, as `DivisionRule` lists them. -/
theorem complete_division (op : Opcode) (f : S32 → S32 → S32) (s : State) (r1 r2 r3 : U32) :
    (∀ a b, s.regs[r1.toNat]? = some a → s.regs[r2.toNat]? = some b → b.toInt ≠ 0 → r3.toNat < s.regs.length →
      complete op s (division f r1 r2 r3 s) = .next (afterReg s r3 (f a b))) ∧
    (s.regs.length ≤ r1.toNat → complete op s (division f r1 r2 r3 s) = .next (faultedWith s op (.outOfBounds .reg .reg1 r1))) ∧
    (r1.toNat < s.regs.length → s.regs.length ≤ r2.toNat →
      complete op s (division f r1 r2 r3 s) = .next (faultedWith s op (.outOfBounds .reg .reg2 r2))) ∧
    (∀ b, r1.toNat < s.regs.length → s.regs[r2.toNat]? = some b → b.toInt = 0 →
      complete op s (division f r1 r2 r3 s) = .next (faultedWith s op (.divisionByZero r2))) ∧
    (∀ b, r1.toNat < s.regs.length → s.regs[r2.toNat]? = some b → b.toInt ≠ 0 → s.regs.length ≤ r3.toNat →
      complete op s (division f r1 r2 r3 s) = .next (faultedWith s op (.outOfBounds .reg .reg3 r3))) := by
  simp only [ne_eq, toInt_eq_zero_iff]
  refine ⟨fun a b h1 h2 hz h3 => ?_, fun h1 => ?_, fun h1 h2 => ?_, fun b h1 h2 hz => ?_, fun b h1 h2 hz h3 => ?_⟩ <;> unfold division
  · rw [regRead_of_some h1, regRead_of_some h2, if_neg hz, regWrite_of_lt h3]
    rfl
  · rw [regRead_of_le h1]
    rfl
  · obtain ⟨a, _, e⟩ := regRead_of_lt h1
    rw [e, regRead_of_le h2]
    rfl
  · obtain ⟨a, _, e⟩ := regRead_of_lt h1
    rw [e, regRead_of_some h2, if_pos hz]
    rfl
  · obtain ⟨a, _, e⟩ := regRead_of_lt h1
    rw [e, regRead_of_some h2, if_neg hz, regWrite_of_le h3]
    rfl

/-- The outcomes of a completed rule `x[reg2] <- f(x[reg1])`, as `TwoOperandRule` lists them. -/
theorem complete_unary (op : Opcode) (f : S32 → S32) (s : State) (r1 r2 : U32) :
    (∀ a, s.regs[r1.toNat]? = some a → r2.toNat < s.regs.length → complete op s (unary f r1 r2 s) = .next (afterReg s r2 (f a))) ∧
    (s.regs.length ≤ r1.toNat → complete op s (unary f r1 r2 s) = .next (faultedWith s op (.outOfBounds .reg .reg1 r1))) ∧
    (r1.toNat < s.regs.length → s.regs.length ≤ r2.toNat →
      complete op s (unary f r1 r2 s) = .next (faultedWith s op (.outOfBounds .reg .reg2 r2))) := by
  refine ⟨fun a h1 h2 => ?_, fun h1 => ?_, fun h1 h2 => ?_⟩ <;> unfold unary
  · rw [regRead_of_some h1, regWrite_of_lt h2]
    rfl
  · rw [regRead_of_le h1]
    rfl
  · obtain ⟨a, _, e⟩ := regRead_of_lt h1
    rw [e, regWrite_of_le h2]
    rfl

/-- The outcomes of a completed rule `x[reg1] <- f(x[reg1])`, as `InPlaceRule` lists them. -/
theorem complete_inPlace (op : Opcode) (f : S32 → S32) (s : State) (r1 : U32) :
    (∀ a, s.regs[r1.toNat]? = some a → complete op s (inPlace f r1 s) = .next (afterReg s r1 (f a))) ∧
    (s.regs.length ≤ r1.toNat → complete op s (inPlace f r1 s) = .next (faultedWith s op (.outOfBounds .reg .reg1 r1))) := by
  refine ⟨fun a h1 => ?_, fun h1 => ?_⟩ <;> unfold inPlace
  · rw [regRead_of_some h1, regWrite_of_lt (lt_of_getElem?_regs h1)]
    rfl
  · rw [regRead_of_le h1]
    rfl

/-- The outcomes of a completed write of `v` to `reg1` as the last line of a rule. -/
theorem complete_regWrite (op : Opcode) (s : State) (r1 : U32) (v : S32) :
    (r1.toNat < s.regs.length → complete op s (regWrite .reg1 r1 v s) = .next (afterReg s r1 v)) ∧
    (s.regs.length ≤ r1.toNat → complete op s (regWrite .reg1 r1 v s) = .next (faultedWith s op (.outOfBounds .reg .reg1 r1))) := by
  refine ⟨fun h1 => ?_, fun h1 => ?_⟩
  · rw [regWrite_of_lt h1]
    rfl
  · rw [regWrite_of_le h1]
    rfl

/-- A conditional jump on one register follows `RegisterJumpRule` at the condition its test stands for. -/
theorem complete_branchIf (op : Opcode) {test : S32 → Bool} {p : Int → Prop} (hp : ∀ a, test a = true ↔ p a.toInt) (s : State) (r1 addr : U32) :
    (∀ a, s.regs[r1.toNat]? = some a → p a.toInt → complete op s (branchIf test r1 addr s) = .next (afterJump s addr)) ∧
    (∀ a, s.regs[r1.toNat]? = some a → ¬ p a.toInt → complete op s (branchIf test r1 addr s) = .next (afterNothing s)) ∧
    (s.regs.length ≤ r1.toNat → complete op s (branchIf test r1 addr s) = .next (faultedWith s op (.outOfBounds .reg .reg1 r1))) := by
  simp only [← hp]
  refine ⟨fun a h1 ht => ?_, fun a h1 ht => ?_, fun h1 => ?_⟩ <;> unfold branchIf
  · rw [regRead_of_some h1, branch, if_pos ht]
    rfl
  · rw [regRead_of_some h1, branch, if_neg ht]
    rfl
  · rw [regRead_of_le h1]
    rfl

/-- A conditional jump on two registers follows `ComparisonJumpRule` at the condition its test stands for. -/
theorem complete_branchIf2 (op : Opcode) {test : S32 → S32 → Bool} {p : Int → Int → Prop} (hp : ∀ a b, test a b = true ↔ p a.toInt b.toInt)
    (s : State) (r1 r2 addr : U32) :
    (∀ a b, s.regs[r1.toNat]? = some a → s.regs[r2.toNat]? = some b → p a.toInt b.toInt →
      complete op s (branchIf2 test r1 r2 addr s) = .next (afterJump s addr)) ∧
    (∀ a b, s.regs[r1.toNat]? = some a → s.regs[r2.toNat]? = some b → ¬ p a.toInt b.toInt →
      complete op s (branchIf2 test r1 r2 addr s) = .next (afterNothing s)) ∧
    (s.regs.length ≤ r1.toNat → complete op s (branchIf2 test r1 r2 addr s) = .next (faultedWith s op (.outOfBounds .reg .reg1 r1))) ∧
    (r1.toNat < s.regs.length → s.regs.length ≤ r2.toNat →
      complete op s (branchIf2 test r1 r2 addr s) = .next (faultedWith s op (.outOfBounds .reg .reg2 r2))) := by
  simp only [← hp]
  refine ⟨fun a b h1 h2 ht => ?_, fun a b h1 h2 ht => ?_, fun h1 => ?_, fun h1 h2 => ?_⟩ <;> unfold branchIf2
  · rw [regRead_of_some h1, regRead_of_some h2, branch, if_pos ht]
    rfl
  · rw [regRead_of_some h1, regRead_of_some h2, branch, if_neg ht]
    rfl
  · rw [regRead_of_le h1]
    rfl
  · obtain ⟨a, _, e⟩ := regRead_of_lt h1
    rw [e, regRead_of_le h2]
    rfl

end Sys2Proof.Machine
end

section
/-! PROOFS of the rules of arithmetic and logic (`40_arithmetic.md`, `41_bitwise.md`): each opcode's function, tied to the number the spec names. -/

namespace Sys2Proof.Machine

open Sys2Proof.Claims

/-! ### The functions of the ALU as numbers -/

/-- What lies in `INT_MIN .. INT_MAX` is not changed by the wrap (R8). -/
theorem toInt_wrap32 {z : Int} (hlo : -2147483648 ≤ z) (hhi : z ≤ 2147483647) : (wrap32 z).toInt = z :=
  BitVec.toInt_ofInt_eq_self (by decide) (by omega) (by omega)

theorem le_toInt (a : S32) : -2147483648 ≤ a.toInt := by
  simpa using a.le_toInt

theorem toInt_le (a : S32) : a.toInt ≤ 2147483647 := by
  have := a.toInt_lt
  omega

theorem aluAbs_eq_wrap32 (a : S32) : aluAbs a = wrap32 |a.toInt| := by
  unfold aluAbs
  split
  · rename_i h
    rw [abs_of_neg h]
  · rename_i h
    rw [abs_of_nonneg (by omega), wrap32, BitVec.ofInt_toInt]

/-- MOD is the remainder that belongs to the quotient of DIV (R102). -/
theorem aluMod_eq_wrap32 (a b : S32) : aluMod a b = wrap32 (a.toInt - b.toInt * a.toInt.tdiv b.toInt) := by
  rw [aluMod, Int.tmod_def]

theorem not_eq_wrap32 (a : S32) : ~~~a = wrap32 (-a.toInt - 1) := by
  rw [BitVec.not_eq_neg_add]
  apply BitVec.eq_of_toInt_eq
  simp [wrap32, BitVec.toInt_sub, BitVec.toInt_neg]

theorem aluSub_eq_sub (a b : S32) : aluSub a b = a - b := by
  apply BitVec.eq_of_toInt_eq
  rw [aluSub, wrap32, BitVec.toInt_ofInt, BitVec.toInt_sub]

/-- A wrapped difference is 0 for equal operands only. -/
theorem toInt_aluSub_eq_zero_iff (a b : S32) : (aluSub a b).toInt = 0 ↔ a.toInt = b.toInt := by
  rw [toInt_eq_zero_iff, aluSub_eq_sub, BitVec.toInt_inj]
  exact sub_eq_zero

/-! ### The rules -/

/-- Settles O7: each is the shape `binary` at its function. -/
theorem addSubMulWriteTheWrappedResult : Obligations.AddSubMulWriteTheWrappedResult :=
  ⟨complete_binary .add aluAdd, complete_binary .sub aluSub, complete_binary .mul aluMul⟩

/-- Settles O8: each is the shape `division` at its function; the remainder is `a - b * q` (`aluMod_eq_wrap32`). -/
theorem divModTruncateOrFaultOnZero : Obligations.DivModTruncateOrFaultOnZero := by
  refine ⟨complete_division .div aluDiv, ?_⟩
  have hmod : (fun a b : S32 => BitVec.ofInt 32 (a.toInt - b.toInt * a.toInt.tdiv b.toInt)) = aluMod :=
    funext₂ fun a b => (aluMod_eq_wrap32 a b).symm
  rw [hmod]
  exact complete_division .mod aluMod

/-- Settles O9: each is the shape `unary` at its function; ABS is the wrapped absolute value (`aluAbs_eq_wrap32`). -/
theorem negAbsWriteTheSecondOperand : Obligations.NegAbsWriteTheSecondOperand := by
  refine ⟨complete_unary .neg aluNeg, ?_⟩
  have habs : (fun a : S32 => BitVec.ofInt 32 |a.toInt|) = aluAbs := funext fun a => (aluAbs_eq_wrap32 a).symm
  rw [habs]
  exact complete_unary .abs aluAbs

/-- Settles O10: each is the shape `inPlace` at its function. -/
theorem incDecWorkInPlace : Obligations.IncDecWorkInPlace := ⟨complete_inPlace .inc aluInc, complete_inPlace .dec aluDec⟩

/-- Settles O11: each is the shape `binary` at its function, under the tag of its opcode. -/
theorem andOrXorTestCombineBits : Obligations.AndOrXorTestCombineBits :=
  ⟨⟨spelledBy_instr .and, complete_binary .and aluAnd⟩, ⟨spelledBy_instr .or, complete_binary .or aluOr⟩,
    ⟨spelledBy_instr .xor, complete_binary .xor aluXor⟩, ⟨spelledBy_instr .test, complete_binary .test aluAnd⟩⟩

/-- Settles O12: the shape `unary` at the complement, which is `not_eq_wrap32`. -/
theorem notComplementsIntoTheSecondOperand : Obligations.NotComplementsIntoTheSecondOperand :=
  ⟨spelledBy_instr .not, complete_unary .not aluNot, not_eq_wrap32⟩

/-- Settles O13: CMP is the shape `binary` at the difference, whose zero is `toInt_aluSub_eq_zero_iff`. -/
theorem cmpWritesTheDifference : Obligations.CmpWritesTheDifference := by
  refine ⟨complete_binary .cmp aluSub, fun s r1 r2 r3 a b h1 h2 h3 => ?_⟩
  exact ⟨aluSub a b, (complete_binary .cmp aluSub s r1 r2 r3).1 a b h1 h2 h3, toInt_aluSub_eq_zero_iff a b⟩

/-! ### Shifts (R121, R125, R126) -/

/-- A right shift is the floor of the division by `2^c`: it brackets its operand. -/
theorem shiftRight_bracket (a : S32) (c : Nat) :
    (shiftRight a c).toInt * 2 ^ c ≤ a.toInt ∧ a.toInt < ((shiftRight a c).toInt + 1) * 2 ^ c := by
  have hlo := le_toInt a
  have hhi := toInt_le a
  have hn : (1 : Int) ≤ 2 ^ c := one_le_pow₀ (by decide)
  have hfit : (shiftRight a c).toInt = a.toInt / 2 ^ c := by
    rw [shiftRight, Int.fdiv_eq_ediv_of_nonneg _ (Int.natCast_nonneg _), Nat.cast_pow, Nat.cast_ofNat]
    refine toInt_wrap32 ?_ ?_
    · rw [Int.le_ediv_iff_mul_le (by omega)]
      omega
    · rw [← Int.lt_add_one_iff, Int.ediv_lt_iff_lt_mul (by omega)]
      omega
  rw [hfit]
  exact ⟨Int.ediv_mul_le _ (by omega), Int.lt_ediv_add_one_mul_self _ (by omega)⟩

theorem aluShift_of_inRange {sel : ShiftOor} {op : ShiftOp} {a c : S32} (hlo : 0 ≤ c.toInt) (hhi : c.toInt ≤ 31) :
    aluShift sel op a c = shiftBy op a c.toInt.toNat := by
  have hc : c.toInt.toNat = c.toNat := by
    rw [BitVec.toInt_eq_toNat_cond] at hlo ⊢
    split at hlo <;> omega
  rw [aluShift, if_pos ⟨hlo, hhi⟩, hc]

theorem aluShift_of_outOfRange {sel : ShiftOor} {op : ShiftOp} {a c : S32} (h : c.toInt < 0 ∨ 32 ≤ c.toInt) :
    aluShift sel op a c = shiftOutOfRange sel op a c :=
  if_neg (by omega)

/-- The default shifter uses the count's pattern modulo 32 (D11). -/
theorem shiftOutOfRange_mod32 (op : ShiftOp) (a c : S32) : shiftOutOfRange .mod32 op a c = shiftBy op a (c.toNat % 32) := by
  simp [shiftOutOfRange]

/-- SHL and SHR that shift by `n`: the wrapped product with `2^n`, and the bracketed floor. -/
theorem exec_shifts_of_shiftBy {s : State} {r1 r2 r3 : U32} {a c : S32} {n : Nat} (h1 : s.regs[r1.toNat]? = some a)
    (h2 : s.regs[r2.toNat]? = some c) (h3 : r3.toNat < s.regs.length) (hn : ∀ op, aluShift s.cfg.shiftOor op a c = shiftBy op a n) :
    exec (.shl r1 r2 r3) s = .next (afterReg s r3 (BitVec.ofInt 32 (a.toInt * 2 ^ n))) ∧
    ∃ v, exec (.shr r1 r2 r3) s = .next (afterReg s r3 v) ∧ v.toInt * 2 ^ n ≤ a.toInt ∧ a.toInt < (v.toInt + 1) * 2 ^ n := by
  have hl : exec (.shl r1 r2 r3) s = .next (afterReg s r3 _) := (complete_binary .shl _ s r1 r2 r3).1 a c h1 h2 h3
  have hr : exec (.shr r1 r2 r3) s = .next (afterReg s r3 _) := (complete_binary .shr _ s r1 r2 r3).1 a c h1 h2 h3
  rw [hn] at hl hr
  refine ⟨?_, _, hr, shiftRight_bracket a n⟩
  rw [hl, shiftBy, shiftLeft, wrap32, Nat.cast_pow, Nat.cast_ofNat]

/-- Settles O14: a count in range shifts by its number; the bounds checks are those of the shape `binary`. -/
theorem shiftsByCountsInRange : Obligations.ShiftsByCountsInRange := by
  refine ⟨fun s r1 r2 r3 a c h1 h2 h3 hlo hhi => ?_, fun s r1 r2 r3 => ?_⟩
  · exact exec_shifts_of_shiftBy h1 h2 h3 fun _ => aluShift_of_inRange hlo hhi
  · obtain ⟨_, hl1, hl2, hl3⟩ := complete_binary .shl (aluShift s.cfg.shiftOor .shl) s r1 r2 r3
    obtain ⟨_, hr1, hr2, hr3⟩ := complete_binary .shr (aluShift s.cfg.shiftOor .shr) s r1 r2 r3
    exact ⟨fun h1 => ⟨hl1 h1, hr1 h1⟩, fun h1 h2 => ⟨hl2 h1 h2, hr2 h1 h2⟩, fun h1 h2 h3 => ⟨hl3 h1 h2 h3, hr3 h1 h2 h3⟩⟩

/-- Settles O15: a count out of range is answered by the machine's shifter. -/
theorem shiftsByCountsOutOfRange : Obligations.ShiftsByCountsOutOfRange := by
  intro s r1 r2 r3 a c h1 h2 h3 hc
  have hs : ∀ op, aluShift s.cfg.shiftOor op a c = shiftOutOfRange s.cfg.shiftOor op a c := fun _ => aluShift_of_outOfRange hc
  refine ⟨fun hsel => exec_shifts_of_shiftBy h1 h2 h3 fun op => ?_, fun hsel => ?_⟩
  · rw [hs, hsel, shiftOutOfRange_mod32]
  · have hf : ∀ op, aluShift s.cfg.shiftOor op a c = Config.freeShift op a c := fun op => by rw [hs, hsel, shiftOutOfRange]
    rw [← hf, ← hf]
    exact ⟨(complete_binary .shl _ s r1 r2 r3).1 a c h1 h2 h3, (complete_binary .shr _ s r1 r2 r3).1 a c h1 h2 h3⟩

/-! ### Exact results -/

/-- A three-operand opcode that writes the wrapped number `z` is exact where `z` fits. -/
theorem exactThreeOperand_of_rule {op : Opcode} {mk : U32 → U32 → U32 → Instr} {z : Int → Int → Int}
    (h : ThreeOperandRule op mk fun a b => wrap32 (z a.toInt b.toInt)) : ExactThreeOperand mk z :=
  fun s r1 r2 r3 a b h1 h2 h3 hlo hhi => ⟨_, (h s r1 r2 r3).1 a b h1 h2 h3, toInt_wrap32 hlo hhi⟩

theorem exactTwoOperand_of_rule {op : Opcode} {mk : U32 → U32 → Instr} {z : Int → Int}
    (h : TwoOperandRule op mk fun a => wrap32 (z a.toInt)) : ExactTwoOperand mk z :=
  fun s r1 r2 a h1 h2 hlo hhi => ⟨_, (h s r1 r2).1 a h1 h2, toInt_wrap32 hlo hhi⟩

theorem exactInPlace_of_rule {op : Opcode} {mk : U32 → Instr} {z : Int → Int}
    (h : InPlaceRule op mk fun a => wrap32 (z a.toInt)) : ExactInPlace mk z :=
  fun s r1 a h1 hlo hhi => ⟨_, (h s r1).1 a h1, toInt_wrap32 hlo hhi⟩

/-- Settles O28: the rules of the eight opcodes write wrapped numbers. -/
theorem resultsThatFitAreExact : Obligations.ResultsThatFitAreExact := by
  obtain ⟨hadd, hsub, hmul⟩ := addSubMulWriteTheWrappedResult
  obtain ⟨hneg, habs⟩ := negAbsWriteTheSecondOperand
  obtain ⟨hinc, hdec⟩ := incDecWorkInPlace
  exact ⟨exactThreeOperand_of_rule hadd, exactThreeOperand_of_rule hsub, exactThreeOperand_of_rule hmul,
    exactThreeOperand_of_rule cmpWritesTheDifference.1, exactTwoOperand_of_rule hneg, exactTwoOperand_of_rule habs,
    exactInPlace_of_rule hinc, exactInPlace_of_rule hdec⟩

/-! ### Division (R102) -/

theorem abs_tmod_lt (x : Int) {y : Int} (hy : y ≠ 0) : |x.tmod y| < |y| := by
  rw [Int.abs_eq_natAbs, Int.abs_eq_natAbs, Int.natAbs_tmod]
  exact_mod_cast Nat.mod_lt _ (Int.natAbs_pos.2 hy)

theorem tmod_nonpos {x : Int} (hx : x ≤ 0) (y : Int) : x.tmod y ≤ 0 := by
  have h : 0 ≤ (-x).tmod y := Int.tmod_nonneg y (by omega)
  rw [Int.neg_tmod] at h
  omega

/-- The remainder always fits: it is smaller than the divisor. -/
theorem toInt_aluMod {a b : S32} (hb : b.toInt ≠ 0) : (aluMod a b).toInt = a.toInt.tmod b.toInt := by
  have hlt := abs_lt.1 (abs_tmod_lt a.toInt hb)
  have hbound : |b.toInt| ≤ 2147483648 := abs_le.2 ⟨le_toInt b, (toInt_le b).trans (by decide)⟩
  exact toInt_wrap32 (by omega) (by omega)

/-- The quotient fits but for `INT_MIN / -1` (D9). -/
theorem toInt_aluDiv {a b : S32} (hb : b.toInt ≠ 0) (h : ¬ (a.toInt = -2147483648 ∧ b.toInt = -1)) :
    (aluDiv a b).toInt = a.toInt.tdiv b.toInt := by
  have hle := Int.natAbs_tdiv_le_natAbs a.toInt b.toInt
  have hlo := le_toInt a
  have hhi := toInt_le a
  refine toInt_wrap32 (by omega) (Int.lt_add_one_iff.1 (lt_of_le_of_ne (by omega) fun hq => ?_))
  have hdiv := Int.mul_tdiv_add_tmod a.toInt b.toInt
  have hlt := abs_lt.1 (abs_tmod_lt a.toInt hb)
  have hneg := tmod_nonpos (x := a.toInt) (by omega) b.toInt
  rw [hq] at hdiv
  rcases abs_cases b.toInt with ⟨hab, _⟩ | ⟨hab, _⟩ <;> omega

/-- Settles O29: DIV and MOD compute truncated quotient and remainder, which fit but for one quotient. -/
theorem divAndModFormADivision : Obligations.DivAndModFormADivision := by
  intro s r1 r2 r3 a b h1 h2 hb h3
  refine ⟨aluDiv a b, aluMod a b, (complete_division .div aluDiv s r1 r2 r3).1 a b h1 h2 hb h3,
    (complete_division .mod aluMod s r1 r2 r3).1 a b h1 h2 hb h3, fun h => ?_, fun ⟨ha, hb'⟩ => ?_, ?_⟩
  · rw [toInt_aluDiv hb h, toInt_aluMod hb, Int.mul_comm]
    exact Int.mul_tdiv_add_tmod _ _
  · rw [aluDiv, aluMod, ha, hb']
    decide
  · rw [toInt_aluMod hb]
    exact ⟨abs_tmod_lt _ hb, Int.tmod_nonneg _, fun h => tmod_nonpos h _⟩

end Sys2Proof.Machine
end

section
/-! PROOFS of the rules of data movement, the jumps, NOP and HALT (`42_data_movement.md` to `44_misc.md`). -/

namespace Sys2Proof.Machine

open Sys2Proof.Claims

variable {s : State} {a : U32} {v : S32}

/-! ### What the memory accessors evaluate to -/

theorem memRead_of_lt {k : S32 → Evaluation} (h : a.toNat < s.cfg.memorySize) : memRead a s k = k (Memory.read a.toNat s.mem) := if_pos h

theorem memRead_of_le {k : S32 → Evaluation} (h : s.cfg.memorySize ≤ a.toNat) : memRead a s k = .raise (.outOfBounds .mem .addr a) :=
  if_neg (Nat.not_lt.2 h)

theorem memWrite_of_lt (h : a.toNat < s.cfg.memorySize) : memWrite a v s = .commit (s.setMem a v) := if_pos h

theorem memWrite_of_le (h : s.cfg.memorySize ≤ a.toNat) : memWrite a v s = .raise (.outOfBounds .mem .addr a) := if_neg (Nat.not_lt.2 h)

theorem pushWord_of_zero (h : s.sp = 0) : pushWord v s = .raise (.stackOverflow s.sp) := if_pos h

theorem pushWord_of_lt (h0 : s.sp ≠ 0) (h : s.sp.toNat < s.cfg.memorySize) :
    pushWord v s = .commit ((s.setMem s.sp v).setSp (s.sp - 1)) := by
  rw [pushWord, if_neg h0, if_pos h]

theorem popWord_of_eq {k : S32 → State → Evaluation} (h : s.sp.toNat + 1 = s.cfg.memorySize) :
    popWord s k = .raise (.stackUnderflow s.sp) := if_pos h

theorem popWord_of_lt {k : S32 → State → Evaluation} (h : s.sp.toNat + 1 < s.cfg.memorySize) :
    popWord s k = k (Memory.read (s.sp.toNat + 1) s.mem) (s.setSp (s.sp + 1)) := by
  rw [popWord, if_neg (by omega), if_pos h]

/-! ### Data movement -/

theorem exec_load_eq (r addr : U32) : exec (.load r addr) s = complete .load s (memRead addr s fun v => regWrite .reg1 r v s) := rfl

theorem exec_store_eq (r addr : U32) : exec (.store r addr) s = complete .store s (regRead .reg1 r s fun v => memWrite addr v s) := rfl

theorem exec_mov_eq (r q : U32) : exec (.mov r q) s = complete .mov s (regRead .reg2 q s fun v => regWrite .reg1 r v s) := rfl

theorem exec_push_eq (r : U32) : exec (.push r) s = complete .push s (regRead .reg1 r s fun v => pushWord v s) := rfl

theorem exec_pop_eq (r : U32) : exec (.pop r) s = complete .pop s (popWord s fun v t => regWrite .reg1 r v t) := rfl

/-- Settles O16: the address is read first, then the register is written. -/
theorem loadCopiesTheWord : Obligations.LoadCopiesTheWord := by
  intro s r1 addr
  rw [exec_load_eq]
  refine ⟨fun ha => ?_, fun ha => ?_, fun ha => ?_⟩
  · rw [memRead_of_lt ha]
    exact (complete_regWrite .load s r1 _).1
  · rw [memRead_of_le ha]
    rfl
  · rw [memRead_of_lt ha]
    exact (complete_regWrite .load s r1 _).2

/-- Settles O17: the register is read first, then the word is written (`Memory.read_write_same`, `Memory.read_write_other`). -/
theorem storeWritesOneWord : Obligations.StoreWritesOneWord := by
  refine ⟨spelledBy_instr .store, fun s r1 addr => ?_⟩
  rw [exec_store_eq]
  refine ⟨fun v h1 ha hwf => ⟨Memory.write addr.toNat v s.mem, ?_, ?_, fun b hb => ?_⟩, fun h1 => ?_, fun h1 ha => ?_⟩
  · rw [regRead_of_some h1, memWrite_of_lt ha]
    rfl
  · exact Memory.read_write_same _ _ _ hwf
  · exact Memory.read_write_other hb _ _
  · rw [regRead_of_le h1]
    rfl
  · obtain ⟨_, _, e⟩ := regRead_of_lt h1
    rw [e, memWrite_of_le ha]
    rfl

/-- Settles O18: the rule is one checked write. -/
theorem liLoadsTheImmediate : Obligations.LiLoadsTheImmediate := ⟨spelledBy_instr .li, complete_regWrite .li⟩

/-- Settles O19: the source is read first, then the destination is written. -/
theorem movCopiesTheSecondOperandToTheFirst : Obligations.MovCopiesTheSecondOperandToTheFirst := by
  intro s r1 r2
  rw [exec_mov_eq]
  refine ⟨fun v h2 => ?_, fun h2 => ?_, fun h2 => ?_⟩
  · rw [regRead_of_some h2]
    exact (complete_regWrite .mov s r1 v).1
  · rw [regRead_of_le h2]
    rfl
  · obtain ⟨v, _, e⟩ := regRead_of_lt h2
    rw [e]
    exact (complete_regWrite .mov s r1 v).2

/-- A push with room on the stack: the word at `sp` is written and `sp` is one less. -/
theorem exec_push {r : U32} (h : s.regs[r.toNat]? = some v) (h0 : 0 < s.sp.toNat) (hsp : s.sp.toNat < s.cfg.memorySize) :
    exec (.push r) s = .next { afterNothing s with mem := Memory.write s.sp.toNat v s.mem, sp := s.sp - 1 } := by
  have hne : s.sp ≠ 0 := fun e => by simp [e] at h0
  rw [exec_push_eq, regRead_of_some h, pushWord_of_lt hne hsp]
  rfl

/-- A pop of a word that is on the stack, into an existing register. -/
theorem exec_pop {r : U32} (hsp : s.sp.toNat + 1 < s.cfg.memorySize) (hr : r.toNat < s.regs.length) :
    exec (.pop r) s = .next { afterReg s r (Memory.read (s.sp.toNat + 1) s.mem) with sp := s.sp + 1 } := by
  rw [exec_pop_eq, popWord_of_lt hsp, regWrite_of_lt (s := s.setSp (s.sp + 1)) hr]
  rfl

theorem toNat_sub_one {p : U32} (h : 0 < p.toNat) : (p - 1).toNat = p.toNat - 1 := by
  bv_omega

/-- Settles O20: with room it is `exec_push`; the register is checked before the stack. -/
theorem pushWritesThenDecrements : Obligations.PushWritesThenDecrements := by
  refine ⟨spelledBy_instr .push, fun s r1 => ⟨fun v h1 h0 hsp hwf => ?_, fun h1 => ?_, fun h1 h0 => ?_⟩⟩
  · exact ⟨_, _, exec_push h1 h0 hsp, toNat_sub_one h0, Memory.read_write_same _ _ _ hwf, fun b hb => Memory.read_write_other hb _ _⟩
  · rw [exec_push_eq, regRead_of_le h1]
    rfl
  · obtain ⟨_, _, e⟩ := regRead_of_lt h1
    have hz : s.sp = 0 := BitVec.eq_of_toNat_eq h0
    rw [exec_push_eq, e, pushWord_of_zero hz, hz]
    rfl

/-- Settles O21: with a word on the stack it is `exec_pop`; the stack is checked before the register. -/
theorem popIncrementsThenReads : Obligations.PopIncrementsThenReads := by
  intro s r1
  refine ⟨exec_pop, fun hm hsp => ?_, fun hsp h1 => ?_⟩
  · rw [exec_pop_eq, popWord_of_eq (by omega)]
    rfl
  · rw [exec_pop_eq, popWord_of_lt hsp, regWrite_of_le (s := s.setSp (s.sp + 1)) h1]
    rfl

/-- Settles O30: the pop reads back the word the push wrote, into the register it came from. -/
theorem pushThenPopRoundTrips : Obligations.PushThenPopRoundTrips := by
  intro s r v hwf hr h0 hsp
  have hsp1 : (s.sp - 1).toNat + 1 = s.sp.toNat := by
    rw [toNat_sub_one h0]
    omega
  refine ⟨_, _, exec_push hr h0 hsp, exec_pop (hsp1.trans_lt hsp) (lt_of_getElem?_regs hr), ?_, ?_, fun b hb => ?_⟩
  · change s.regs.set r.toNat (Memory.read ((s.sp - 1).toNat + 1) (Memory.write s.sp.toNat v s.mem)) = s.regs
    rw [hsp1, Memory.read_write_same _ _ _ hwf]
    obtain ⟨hlt, rfl⟩ := List.getElem?_eq_some_iff.1 hr
    exact List.set_getElem_self hlt
  · exact BitVec.sub_add_cancel s.sp 1
  · exact Memory.read_write_other hb _ _

/-! ### Jumps, NOP, HALT -/

/-- Settles O22: neither jump looks at the state. -/
theorem unconditionalJumpsRedirect : Obligations.UnconditionalJumpsRedirect :=
  ⟨⟨spelledBy_instr .jmp, fun _ _ => rfl⟩, ⟨spelledBy_instr .b, fun _ _ => rfl⟩⟩

/-- Settles O23: each is the shape `branchIf` at its test. -/
theorem zeroTestJumps : Obligations.ZeroTestJumps :=
  ⟨⟨spelledBy_instr .jz, complete_branchIf .jz (p := (· = 0)) isZero_iff⟩, ⟨spelledBy_instr .bz, complete_branchIf .bz (p := (· = 0)) isZero_iff⟩,
    ⟨spelledBy_instr .jnz, complete_branchIf .jnz (p := (· ≠ 0)) isNonZero_iff⟩, ⟨spelledBy_instr .bnz, complete_branchIf .bnz (p := (· ≠ 0)) isNonZero_iff⟩⟩

/-- Settles O24: each is the shape `branchIf2` at its test. -/
theorem equalityJumps : Obligations.EqualityJumps :=
  ⟨⟨spelledBy_instr .je, complete_branchIf2 .je (p := (· = ·)) areEqual_iff⟩, ⟨spelledBy_instr .jne, complete_branchIf2 .jne (p := (· ≠ ·)) areUnequal_iff⟩⟩

/-- Settles O25: NOP commits the state it began in. -/
theorem nopOnlyAdvances : Obligations.NopOnlyAdvances := ⟨spelledBy_instr .nop, fun _ => rfl⟩

/-- A jump that follows the rule of another one behaves as it does on an existing register. -/
theorem exec_eq_of_registerJumpRules {op op' : Opcode} {mk mk' : U32 → U32 → Instr} {p : Int → Prop} (h : RegisterJumpRule op mk p)
    (h' : RegisterJumpRule op' mk' p) {r : U32} (hr : r.toNat < s.regs.length) (addr : U32) : exec (mk r addr) s = exec (mk' r addr) s := by
  obtain ⟨v, hv⟩ := getElem?_regs_of_lt hr
  obtain ⟨htaken, hnot, _⟩ := h s r addr
  obtain ⟨htaken', hnot', _⟩ := h' s r addr
  by_cases hp : p v.toInt
  · rw [htaken v hv hp, htaken' v hv hp]
  · rw [hnot v hv hp, hnot' v hv hp]

/-- Two opcodes with one three-operand function behave alike on existing registers. -/
theorem exec_eq_of_threeOperandRules {op op' : Opcode} {mk mk' : U32 → U32 → U32 → Instr} {f : S32 → S32 → S32} (h : ThreeOperandRule op mk f)
    (h' : ThreeOperandRule op' mk' f) {r1 r2 r3 : U32} (h1 : r1.toNat < s.regs.length) (h2 : r2.toNat < s.regs.length)
    (h3 : r3.toNat < s.regs.length) : exec (mk r1 r2 r3) s = exec (mk' r1 r2 r3) s := by
  obtain ⟨x, hx⟩ := getElem?_regs_of_lt h1
  obtain ⟨y, hy⟩ := getElem?_regs_of_lt h2
  rw [(h s r1 r2 r3).1 x y hx hy h3, (h' s r1 r2 r3).1 x y hx hy h3]

/-- Settles O27: the two tags of each pair follow one rule. -/
theorem secondTagsBehaveAlike : Obligations.SecondTagsBehaveAlike := by
  obtain ⟨⟨_, hjz⟩, ⟨_, hbz⟩, ⟨_, hjnz⟩, ⟨_, hbnz⟩⟩ := zeroTestJumps
  obtain ⟨_, hsub, _⟩ := addSubMulWriteTheWrappedResult
  obtain ⟨⟨_, hand⟩, _, _, ⟨_, htest⟩⟩ := andOrXorTestCombineBits
  refine fun s => ⟨fun _ => rfl, fun r a hr => ⟨?_, ?_⟩, fun r1 r2 r3 h1 h2 h3 => ⟨?_, ?_⟩⟩
  · exact exec_eq_of_registerJumpRules hbz hjz hr a
  · exact exec_eq_of_registerJumpRules hbnz hjnz hr a
  · exact exec_eq_of_threeOperandRules cmpWritesTheDifference.1 hsub h1 h2 h3
  · exact exec_eq_of_threeOperandRules htest hand h1 h2 h3

end Sys2Proof.Machine
end

section
/-! PROOFS of what an instruction changes and leaves unchanged (`30_encoding.md` R85, `45_execution_engine.md` R193, `60_exceptions.md` R211, R214).
`Checked` says of an evaluation that the first failing check of a list is the fault it raises; each accessor makes one check, so an
instruction's rule is read off against its row of `faultChecks`. The inversion `exec_next_cases` is what every frame statement follows from. -/

namespace Sys2Proof.Machine

open Sys2Proof.Claims

variable {s t u : State} {i : Instr} {P : Evaluation → Prop} {c : Bool × FaultDetail} {cs : List (Bool × FaultDetail)} {e : Evaluation}

/-! ### Numbers that do not wrap -/

/-- One more, where the word has room for it. -/
theorem toNat_add_one {w : Nat} {p : BitVec w} (h : p.toNat + 1 < 2 ^ w) : (p + 1).toNat = p.toNat + 1 := by
  have h1 : (1 : BitVec w).toNat = 1 := Nat.mod_eq_of_lt (a := 1) (b := 2 ^ w) (by omega)
  rw [BitVec.toNat_add_of_lt (by omega), h1]

theorem memorySize_le_of_inv (hs : s.Inv) : s.cfg.memorySize ≤ 4294967296 := by
  obtain ⟨_, hm, _⟩ := bootRefusal_eq_none.1 hs.boots
  exact ((capacityLegal_iff _).1 hm).2

/-- The stack pointer has room to move up to the last word of memory. -/
theorem toNat_sp_add_one (hs : s.Inv) (h : s.sp.toNat + 1 < s.cfg.memorySize) : (s.sp + 1).toNat = s.sp.toNat + 1 :=
  toNat_add_one (h.trans_le (memorySize_le_of_inv hs))

/-! ### Checks made in order -/

/-- The fault of the first check of a list that fails (R214). -/
def firstFailing (cs : List (Bool × FaultDetail)) : Option FaultDetail := (cs.find? (·.1)).map (·.2)

@[simp] theorem firstFailing_nil : firstFailing [] = none := rfl

theorem firstFailing_cons_of_true (h : c.1 = true) : firstFailing (c :: cs) = some c.2 := by
  rw [firstFailing, List.find?_cons_of_pos h]
  rfl

theorem firstFailing_cons_of_false (h : c.1 = false) : firstFailing (c :: cs) = firstFailing cs := by
  rw [firstFailing, List.find?_cons_of_neg (by simp [h])]
  rfl

theorem firstFault_eq_firstFailing (s : State) (i : Instr) : firstFault s i = firstFailing (faultChecks s i) := rfl

/-- An evaluation begun in `s` that makes the checks `cs` in order: it raises the first that fails, or all pass and it meets `P`. The third case is
the stop of the stack primitives with `sp` outside memory, which R28 excludes. -/
inductive Checked (s : State) (P : Evaluation → Prop) (cs : List (Bool × FaultDetail)) : Evaluation → Prop where
  | faults (d : FaultDetail) (h : firstFailing cs = some d) : Checked s P cs (.raise d)
  | completes (e : Evaluation) (h : firstFailing cs = none) (hp : P e) : Checked s P cs e
  | stops (r : Fault) (h : s.cfg.memorySize ≤ s.sp.toNat) : Checked s P cs (.stuck r)

theorem Checked.nil (h : P e) : Checked s P [] e := .completes e firstFailing_nil h

theorem Checked.cons_fails (h : c.1 = true) : Checked s P (c :: cs) (.raise c.2) := .faults _ (firstFailing_cons_of_true h)

theorem Checked.cons_passes (h : c.1 = false) (he : Checked s P cs e) : Checked s P (c :: cs) e := by
  cases he with
  | faults d hd => exact .faults d ((firstFailing_cons_of_false h).trans hd)
  | completes e hn hp => exact .completes e ((firstFailing_cons_of_false h).trans hn) hp
  | stops r hr => exact .stops r hr

/-! ### The accessors make their check -/

theorem badReg_fails {slot : Slot} {r : U32} (h : s.regs.length ≤ r.toNat) : (badReg s slot r).1 = true := decide_eq_true h

theorem badReg_passes {slot : Slot} {r : U32} (h : r.toNat < s.regs.length) : (badReg s slot r).1 = false := (badReg_fst_eq_false_iff s slot r).2 h

theorem badAddr_fails {a : U32} (h : s.cfg.memorySize ≤ a.toNat) : (badAddr s a).1 = true := decide_eq_true h

theorem badAddr_passes {a : U32} (h : a.toNat < s.cfg.memorySize) : (badAddr s a).1 = false := decide_eq_false (Nat.not_le.2 h)

theorem regRead_checked {slot : Slot} {r : U32} {k : S32 → Evaluation} (hk : ∀ v, s.regs[r.toNat]? = some v → Checked s P cs (k v)) :
    Checked s P (badReg s slot r :: cs) (regRead slot r s k) := by
  rcases regRead_cases slot r s k with ⟨v, hv, e⟩ | ⟨hr, e⟩ <;> rw [e]
  · exact .cons_passes (badReg_passes (lt_of_getElem?_regs hv)) (hk v hv)
  · exact .cons_fails (badReg_fails hr)

theorem regWrite_checked {slot : Slot} {r : U32} {v : S32} (h : P (.commit (s.setReg r v))) :
    Checked s P [badReg s slot r] (regWrite slot r v s) := by
  rcases regWrite_cases slot r v s with ⟨hr, e⟩ | ⟨hr, e⟩ <;> rw [e]
  · exact .cons_passes (badReg_passes hr) (.nil h)
  · exact .cons_fails (badReg_fails hr)

theorem memRead_checked {a : U32} {k : S32 → Evaluation} (hk : ∀ v, Checked s P cs (k v)) :
    Checked s P (badAddr s a :: cs) (memRead a s k) := by
  rcases memRead_cases a s k with ⟨ha, e⟩ | ⟨ha, e⟩ <;> rw [e]
  · exact .cons_passes (badAddr_passes ha) (hk _)
  · exact .cons_fails (badAddr_fails ha)

theorem memWrite_checked {a : U32} {v : S32} (h : a.toNat < s.cfg.memorySize → P (.commit (s.setMem a v))) :
    Checked s P [badAddr s a] (memWrite a v s) := by
  rcases memWrite_cases a v s with ⟨ha, e⟩ | ⟨ha, e⟩ <;> rw [e]
  · exact .cons_passes (badAddr_passes ha) (.nil (h ha))
  · exact .cons_fails (badAddr_fails ha)

theorem pushWord_checked {v : S32} (h : s.sp ≠ 0 → P (.commit ((s.setMem s.sp v).setSp (s.sp - 1)))) :
    Checked s P [(decide (s.sp.toNat = 0), .stackOverflow s.sp)] (pushWord v s) := by
  have hz : s.sp.toNat = 0 ↔ s.sp = 0 := BitVec.toNat_eq (y := 0).symm
  rcases pushWord_cases v s with ⟨h0, e⟩ | ⟨h0, _, e⟩ | ⟨_, hsp, e⟩ <;> rw [e]
  · exact .cons_fails (decide_eq_true (hz.2 h0))
  · exact .cons_passes (decide_eq_false (mt hz.1 h0)) (.nil (h h0))
  · exact .stops _ hsp

theorem popWord_checked {r : U32} (h : ∀ v, s.sp.toNat + 1 < s.cfg.memorySize → P (.commit ((s.setSp (s.sp + 1)).setReg r v))) :
    Checked s P [(decide (s.sp.toNat = s.cfg.memorySize - 1), .stackUnderflow s.sp), badReg s .reg1 r]
      (popWord s fun v u => regWrite .reg1 r v u) := by
  rcases popWord_cases s fun v u => regWrite .reg1 r v u with ⟨hsp, e⟩ | ⟨hsp, e⟩ | ⟨hsp, e⟩ <;> rw [e]
  · exact .cons_fails (decide_eq_true (by omega))
  · refine .cons_passes (decide_eq_false (by omega)) ?_
    rcases regWrite_cases .reg1 r (Memory.read (s.sp.toNat + 1) s.mem) (s.setSp (s.sp + 1)) with ⟨hr, e⟩ | ⟨hr, e⟩ <;> rw [e]
    · exact .cons_passes (badReg_passes hr) (.nil (h _ hsp))
    · exact .cons_fails (badReg_fails hr)
  · exact .stops _ (by omega)

/-! ### The shapes make their row of checks -/

theorem binary_checked {f : S32 → S32 → S32} {r1 r2 r3 : U32} (h : ∀ v, P (.commit (s.setReg r3 v))) :
    Checked s P [badReg s .reg1 r1, badReg s .reg2 r2, badReg s .reg3 r3] (binary f r1 r2 r3 s) :=
  regRead_checked fun _ _ => regRead_checked fun _ _ => regWrite_checked (h _)

theorem division_checked {f : S32 → S32 → S32} {r1 r2 r3 : U32} (h : ∀ v, P (.commit (s.setReg r3 v))) :
    Checked s P [badReg s .reg1 r1, badReg s .reg2 r2, zeroDivisor s r2, badReg s .reg3 r3] (division f r1 r2 r3 s) := by
  refine regRead_checked fun a _ => regRead_checked fun b hb => ?_
  by_cases hz : b = 0
  · rw [if_pos hz]
    exact .cons_fails (c := zeroDivisor s r2) (decide_eq_true (hb.trans (congrArg some hz)))
  · rw [if_neg hz]
    refine .cons_passes (decide_eq_false fun h0 => hz ?_) (regWrite_checked (h _))
    exact Option.some.inj (hb.symm.trans h0)

theorem unary_checked {f : S32 → S32} {r1 r2 : U32} (h : ∀ v, P (.commit (s.setReg r2 v))) :
    Checked s P [badReg s .reg1 r1, badReg s .reg2 r2] (unary f r1 r2 s) :=
  regRead_checked fun _ _ => regWrite_checked (h _)

theorem inPlace_checked {f : S32 → S32} {r1 : U32} (h : ∀ v, P (.commit (s.setReg r1 v))) :
    Checked s P [badReg s .reg1 r1] (inPlace f r1 s) := by
  refine regRead_checked fun v hv => ?_
  rw [regWrite_of_lt (lt_of_getElem?_regs hv)]
  exact .nil (h _)

/-- The two ways on of a conditional jump, by what its test says. -/
theorem branch_checked {taken : Bool} {addr : U32} (ht : taken = true → P (.redirect addr)) (hf : ¬ taken = true → P (.commit s)) :
    Checked s P [] (branch taken addr s) := by
  unfold branch
  split
  · rename_i h
    exact .nil (ht h)
  · rename_i h
    exact .nil (hf h)

/-! ### What an instruction whose checks pass can do -/

/-- The writes of instruction `i` to `x`, `mem`, `sp`: to its destination, or to the address it stores to, or those of PUSH and POP. -/
inductive Writes (i : Instr) (s : State) : State → Prop where
  | nothing : Writes i s s
  | register (r : U32) (v : S32) (h : destination i = some r) : Writes i s (s.setReg r v)
  | word (a : U32) (v : S32) (h : storedAddress s i = some a.toNat) (ha : a.toNat < s.cfg.memorySize) : Writes i s (s.setMem a v)
  | pushed (r : U32) (v : S32) (h : i = .push r) (h0 : s.sp ≠ 0) : Writes i s ((s.setMem s.sp v).setSp (s.sp - 1))
  | popped (r : U32) (v : S32) (h : i = .pop r) (hsp : s.sp.toNat + 1 < s.cfg.memorySize) : Writes i s ((s.setSp (s.sp + 1)).setReg r v)

/-- The outcomes of R192 that are no fault, for instruction `i`. -/
inductive Completes (i : Instr) (s : State) : Evaluation → Prop where
  | halts (h : i = .halt) : Completes i s .halt
  | redirects (a : U32) (ht : jumpTarget i = some a) (hj : jumpTaken s i) : Completes i s (.redirect a)
  | commits (u : State) (hh : i ≠ .halt) (hj : ¬ jumpTaken s i) (hw : Writes i s u) : Completes i s (.commit u)

theorem not_jumpTaken_of_jumpTarget (h : jumpTarget i = none) : ¬ jumpTaken s i := by
  cases i with
  | jmp | b | jz | bz | jnz | bnz | je | jne => cases h
  | _ => exact id

theorem Completes.of_register {r : U32} (h : destination i = some r) (v : S32) : Completes i s (.commit (s.setReg r v)) := by
  have hj : jumpTarget i = none := by
    cases i with
    | jmp | b | jz | bz | jnz | bnz | je | jne => cases h
    | _ => rfl
  have hh : i ≠ .halt := by
    rintro rfl
    cases h
  exact .commits _ hh (not_jumpTaken_of_jumpTarget hj) (.register r v h)

/-- A conditional jump on one register, with the spec's condition `p` in place of the model's test. -/
theorem branchIf_checked {test : S32 → Bool} {p : Int → Prop} {r a : U32} (hp : ∀ v, test v = true ↔ p v.toInt) (ht : jumpTarget i = some a)
    (hj : jumpTaken s i ↔ ∃ v, s.regs[r.toNat]? = some v ∧ p v.toInt) :
    Checked s (Completes i s) [badReg s .reg1 r] (branchIf test r a s) := by
  refine regRead_checked fun v hv => branch_checked (fun h => ?_) (fun h => ?_)
  · exact .redirects a ht (hj.2 ⟨v, hv, (hp v).1 h⟩)
  · refine .commits s (by rintro rfl; cases ht) (fun hjump => h ?_) .nothing
    obtain ⟨w, hw, hpw⟩ := hj.1 hjump
    cases hv.symm.trans hw
    exact (hp v).2 hpw

/-- A conditional jump on two registers. -/
theorem branchIf2_checked {test : S32 → S32 → Bool} {p : Int → Int → Prop} {r q a : U32} (hp : ∀ v w, test v w = true ↔ p v.toInt w.toInt)
    (ht : jumpTarget i = some a)
    (hj : jumpTaken s i ↔ ∃ v w, s.regs[r.toNat]? = some v ∧ s.regs[q.toNat]? = some w ∧ p v.toInt w.toInt) :
    Checked s (Completes i s) [badReg s .reg1 r, badReg s .reg2 q] (branchIf2 test r q a s) := by
  refine regRead_checked fun v hv => regRead_checked fun w hw => branch_checked (fun h => ?_) (fun h => ?_)
  · exact .redirects a ht (hj.2 ⟨v, w, hv, hw, (hp v w).1 h⟩)
  · refine .commits s (by rintro rfl; cases ht) (fun hjump => h ?_) .nothing
    obtain ⟨v', w', hv', hw', hpw⟩ := hj.1 hjump
    cases hv.symm.trans hv'
    cases hw.symm.trans hw'
    exact (hp v w).2 hpw

/-- Every instruction makes the checks of its row of `faultChecks`, in order, and completes as its row of the tables says. -/
theorem exec_checked (i : Instr) (s : State) : ∃ e, exec i s = complete i.opcode s e ∧ Checked s (Completes i s) (faultChecks s i) e := by
  cases i with
  | nop => exact ⟨_, rfl, .nil (.commits _ nofun id .nothing)⟩
  | halt => exact ⟨_, rfl, .nil (.halts rfl)⟩
  | jmp a | b a => exact ⟨_, rfl, .nil (.redirects a rfl trivial)⟩
  | add | sub | mul | and | or | xor | shl | shr | cmp | test => exact ⟨_, rfl, binary_checked (.of_register rfl)⟩
  | div | mod => exact ⟨_, rfl, division_checked (.of_register rfl)⟩
  | neg | abs | not => exact ⟨_, rfl, unary_checked (.of_register rfl)⟩
  | inc | dec => exact ⟨_, rfl, inPlace_checked (.of_register rfl)⟩
  | jz | bz => exact ⟨_, rfl, branchIf_checked (p := (· = 0)) isZero_iff rfl Iff.rfl⟩
  | jnz | bnz => exact ⟨_, rfl, branchIf_checked (p := (· ≠ 0)) isNonZero_iff rfl Iff.rfl⟩
  | je => exact ⟨_, rfl, branchIf2_checked (p := (· = ·)) areEqual_iff rfl Iff.rfl⟩
  | jne => exact ⟨_, rfl, branchIf2_checked (p := (· ≠ ·)) areUnequal_iff rfl Iff.rfl⟩
  | li => exact ⟨_, rfl, regWrite_checked (.of_register rfl _)⟩
  | mov => exact ⟨_, rfl, regRead_checked fun _ _ => regWrite_checked (.of_register rfl _)⟩
  | load => exact ⟨_, rfl, memRead_checked fun _ => regWrite_checked (.of_register rfl _)⟩
  | store => exact ⟨_, rfl, regRead_checked fun _ _ => memWrite_checked fun ha => .commits _ nofun id (.word _ _ rfl ha)⟩
  | push r => exact ⟨_, rfl, regRead_checked fun _ _ => pushWord_checked fun h0 => .commits _ nofun id (.pushed r _ rfl h0)⟩
  | pop r => exact ⟨_, rfl, popWord_checked fun _ hsp => .commits _ nofun id (.popped r _ rfl hsp)⟩

/-- What an instruction that answers a next state has done: reported its first failing check, or, with none failing, ended the run, jumped, or
committed its writes. -/
theorem exec_next_cases (h : exec i s = .next t) :
    (∃ d, firstFault s i = some d ∧ t = s.takeFault (some i.opcode) d) ∨
    (firstFault s i = none ∧ i = .halt ∧ t = s.halt) ∨
    (firstFault s i = none ∧ ∃ a, jumpTarget i = some a ∧ jumpTaken s i ∧ t = s.redirect a) ∨
    (firstFault s i = none ∧ i ≠ .halt ∧ ¬ jumpTaken s i ∧ ∃ u, Writes i s u ∧ t = u.advance) := by
  obtain ⟨e, he, hc⟩ := exec_checked i s
  rw [he] at h
  rw [firstFault_eq_firstFailing]
  cases hc with
  | faults d hd => cases h; exact .inl ⟨d, hd, rfl⟩
  | stops r hr => cases h
  | completes e hn hp =>
    cases hp with
    | halts hi => cases h; exact .inr (.inl ⟨hn, hi, rfl⟩)
    | redirects a ht hj => cases h; exact .inr (.inr (.inl ⟨hn, a, ht, hj, rfl⟩))
    | commits u hh hj hw => cases h; exact .inr (.inr (.inr ⟨hn, hh, hj, u, hw, rfl⟩))

/-! ### The frames of the writes -/

theorem Writes.exists_eq (h : Writes i s u) : ∃ x m p, u = { s with regs := x, mem := m, sp := p } := by
  cases h <;> exact ⟨_, _, _, rfl⟩

theorem Writes.runState_eq (h : Writes i s u) : u.runState = s.runState := by
  cases h <;> rfl

theorem Writes.fault_eq (h : Writes i s u) : u.fault = s.fault := by
  cases h <;> rfl

theorem Writes.regs_getElem?_eq (h : Writes i s u) {j : Nat} (hj : ∀ d, destination i = some d → d.toNat ≠ j) : u.regs[j]? = s.regs[j]? := by
  cases h with
  | nothing | word | pushed => rfl
  | register r v hd => exact List.getElem?_set_ne (hj r hd)
  | popped r v hi => exact List.getElem?_set_ne (hj r (by rw [hi]; rfl))

theorem Writes.read_eq (h : Writes i s u) {a : Nat} (ha : storedAddress s i ≠ some a) : Memory.read a u.mem = Memory.read a s.mem := by
  cases h with
  | nothing | register | popped => rfl
  | word b v hb =>
    refine Memory.read_write_other ?_ v s.mem
    rintro rfl
    exact ha hb
  | pushed r v hi =>
    refine Memory.read_write_other ?_ v s.mem
    rintro rfl
    exact ha (by rw [hi]; rfl)

/-- Settles O31: only a write to the destination touches the bank. -/
theorem registersChangeOnlyAtTheDestination : Obligations.RegistersChangeOnlyAtTheDestination := by
  intro i s t h
  refine ⟨(exec_answers h).regs_length_eq, fun j hj => ?_⟩
  rcases exec_next_cases h with ⟨d, _, rfl⟩ | ⟨_, _, rfl⟩ | ⟨_, a, _, _, rfl⟩ | ⟨_, _, _, u, hw, rfl⟩
  · rfl
  · rfl
  · rfl
  · exact hw.regs_getElem?_eq hj

/-- Settles O32: only a write to the stored address touches memory. -/
theorem memoryChangesOnlyWhereStored : Obligations.MemoryChangesOnlyWhereStored := by
  intro i s t h a ha
  rcases exec_next_cases h with ⟨d, _, rfl⟩ | ⟨_, _, rfl⟩ | ⟨_, _, _, _, rfl⟩ | ⟨_, _, _, u, hw, rfl⟩
  · rfl
  · rfl
  · rfl
  · exact hw.read_eq ha

/-- Settles O33: of the writes only those of PUSH and POP move `sp`. -/
theorem onlyPushAndPopMoveTheStackPointer : Obligations.OnlyPushAndPopMoveTheStackPointer := by
  intro i s t hs h
  rcases exec_next_cases h with ⟨d, _, rfl⟩ | ⟨_, _, rfl⟩ | ⟨_, _, _, _, rfl⟩ | ⟨_, _, _, u, hw, rfl⟩
  · exact .inl rfl
  · exact .inl rfl
  · exact .inl rfl
  · cases hw with
    | nothing | register | word => exact .inl rfl
    | pushed r v hi h0 =>
      refine .inr (.inl ⟨⟨r, hi⟩, ?_⟩)
      change (s.sp - 1).toNat + 1 = s.sp.toNat
      bv_omega
    | popped r v hi hsp =>
      have hadd : (s.sp + 1).toNat = s.sp.toNat + 1 := toNat_sp_add_one hs hsp
      exact .inr (.inr ⟨⟨r, hi⟩, hadd, hadd.trans_lt hsp⟩)

/-- Settles O40: the four outcomes are those of `exec_next_cases`. -/
theorem instructionsCompleteByOutcome : Obligations.InstructionsCompleteByOutcome := by
  intro i s t h
  rcases exec_next_cases h with ⟨d, _, rfl⟩ | ⟨_, hi, rfl⟩ | ⟨_, a, ht, hj, rfl⟩ | ⟨_, hh, hj, u, hw, rfl⟩
  · exact .inl ⟨d, rfl⟩
  · exact .inr (.inl ⟨hi, rfl⟩)
  · exact .inr (.inr (.inl ⟨a, ht, hj, rfl⟩))
  · obtain ⟨x, m, p, rfl⟩ := hw.exists_eq
    exact .inr (.inr (.inr ⟨hh, hj, x, m, p, rfl⟩))

/-- Settles O46: the instruction answers (`exec_exists_next`), and `exec_next_cases` says by which check. -/
theorem firstFailingCheckIsReported : Obligations.FirstFailingCheckIsReported := by
  intro i s hs hr
  obtain ⟨t, h⟩ := exec_exists_next i hs.spInMemory
  have hrun : s.runState ≠ .faulted := by simp [hr]
  refine ⟨fun d hd => ?_, fun hn => ⟨t, h, ?_⟩⟩
  · rcases exec_next_cases h with ⟨d', hd', rfl⟩ | ⟨hn, _⟩ | ⟨hn, _⟩ | ⟨hn, _⟩
    · rw [h, Option.some.inj (hd.symm.trans hd')]
      rfl
    all_goals simp [hn] at hd
  · rcases exec_next_cases h with ⟨d', hd', _⟩ | ⟨_, _, rfl⟩ | ⟨_, _, _, _, rfl⟩ | ⟨_, _, _, u, hw, rfl⟩
    · simp [hn] at hd'
    · exact ⟨nofun, rfl⟩
    · exact ⟨hrun, rfl⟩
    · exact ⟨hw.runState_eq.trans_ne hrun, hw.fault_eq⟩

end Sys2Proof.Machine
end

section
/-! PROOF that an instruction's effects depend on the State Store alone (`10_state.md` sections 3 to 5, decision D26), by two runs side by side: in
states with one store every operation evaluates alike. -/

namespace Sys2Proof.Machine

open Sys2Proof.Claims

/-- Two states with one State Store: the same registers, memory and `sp`, the same memory size and shifter. -/
structure SameStore (s s' : State) : Prop where
  regs : s'.regs = s.regs
  mem : s'.mem = s.mem
  sp : s'.sp = s.sp
  memorySize : s'.cfg.memorySize = s.cfg.memorySize
  shiftOor : s'.cfg.shiftOor = s.cfg.shiftOor

/-- Two evaluations with one outcome, whose committed states have one store. -/
inductive Alike : Evaluation → Evaluation → Prop where
  | raise (d : FaultDetail) : Alike (.raise d) (.raise d)
  | halt : Alike .halt .halt
  | redirect (a : U32) : Alike (.redirect a) (.redirect a)
  | commit {t t' : State} (h : SameStore t t') : Alike (.commit t) (.commit t')
  | stuck (r : Fault) : Alike (.stuck r) (.stuck r)

variable {s s' : State}

/-! ### The updates keep the store the same -/

theorem SameStore.setReg (h : SameStore s s') (r : U32) (v : S32) : SameStore (s.setReg r v) (s'.setReg r v) :=
  { h with regs := congrArg (·.set r.toNat v) h.regs }

theorem SameStore.setMem (h : SameStore s s') (a : U32) (v : S32) : SameStore (s.setMem a v) (s'.setMem a v) :=
  { h with mem := congrArg (Memory.write a.toNat v) h.mem }

theorem SameStore.setSp (h : SameStore s s') (p : U32) : SameStore (s.setSp p) (s'.setSp p) := { h with sp := rfl }

/-! ### The accessors evaluate alike -/

theorem regRead_alike (h : SameStore s s') {slot : Slot} {r : U32} {k k' : S32 → Evaluation} (hk : ∀ v, Alike (k v) (k' v)) :
    Alike (regRead slot r s k) (regRead slot r s' k') := by
  unfold regRead
  rw [h.regs]
  split
  · exact hk _
  · exact .raise _

theorem regWrite_alike (h : SameStore s s') {slot : Slot} {r : U32} {v : S32} : Alike (regWrite slot r v s) (regWrite slot r v s') := by
  unfold regWrite State.numRegisters
  rw [h.regs]
  split
  · exact .commit (h.setReg r v)
  · exact .raise _

theorem memRead_alike (h : SameStore s s') {a : U32} {k k' : S32 → Evaluation} (hk : ∀ v, Alike (k v) (k' v)) :
    Alike (memRead a s k) (memRead a s' k') := by
  unfold memRead
  rw [h.memorySize, h.mem]
  split
  · exact hk _
  · exact .raise _

theorem memWrite_alike (h : SameStore s s') {a : U32} {v : S32} : Alike (memWrite a v s) (memWrite a v s') := by
  unfold memWrite
  rw [h.memorySize]
  split
  · exact .commit (h.setMem a v)
  · exact .raise _

theorem pushWord_alike (h : SameStore s s') {v : S32} : Alike (pushWord v s) (pushWord v s') := by
  unfold pushWord
  rw [h.memorySize, h.sp]
  split
  · exact .raise _
  · split
    · exact .commit ((h.setMem _ v).setSp _)
    · exact .stuck _

theorem popWord_alike (h : SameStore s s') {k : S32 → State → Evaluation} (hk : ∀ v t t', SameStore t t' → Alike (k v t) (k v t')) :
    Alike (popWord s k) (popWord s' k) := by
  unfold popWord
  rw [h.memorySize, h.sp, h.mem]
  split
  · exact .raise _
  · split
    · exact hk _ _ _ (h.setSp _)
    · exact .stuck _

theorem branch_alike (h : SameStore s s') {taken : Bool} {a : U32} : Alike (branch taken a s) (branch taken a s') := by
  cases taken
  · exact .commit h
  · exact .redirect a

/-! ### The shapes and the instruction evaluate alike -/

theorem binary_alike (h : SameStore s s') {f : S32 → S32 → S32} {r1 r2 r3 : U32} : Alike (binary f r1 r2 r3 s) (binary f r1 r2 r3 s') :=
  regRead_alike h fun _ => regRead_alike h fun _ => regWrite_alike h

theorem division_alike (h : SameStore s s') {f : S32 → S32 → S32} {r1 r2 r3 : U32} :
    Alike (division f r1 r2 r3 s) (division f r1 r2 r3 s') := by
  refine regRead_alike h fun a => regRead_alike h fun b => ?_
  split
  · exact .raise _
  · exact regWrite_alike h

theorem unary_alike (h : SameStore s s') {f : S32 → S32} {r1 r2 : U32} : Alike (unary f r1 r2 s) (unary f r1 r2 s') :=
  regRead_alike h fun _ => regWrite_alike h

theorem inPlace_alike (h : SameStore s s') {f : S32 → S32} {r1 : U32} : Alike (inPlace f r1 s) (inPlace f r1 s') :=
  regRead_alike h fun _ => regWrite_alike h

theorem branchIf_alike (h : SameStore s s') {test : S32 → Bool} {r1 a : U32} : Alike (branchIf test r1 a s) (branchIf test r1 a s') :=
  regRead_alike h fun _ => branch_alike h

theorem branchIf2_alike (h : SameStore s s') {test : S32 → S32 → Bool} {r1 r2 a : U32} :
    Alike (branchIf2 test r1 r2 a s) (branchIf2 test r1 r2 a s') :=
  regRead_alike h fun _ => regRead_alike h fun _ => branch_alike h

/-- A shift reads the shifter of the configuration, which is part of what the states share. -/
theorem shift_alike (h : SameStore s s') {op : ShiftOp} {r1 r2 r3 : U32} :
    Alike (binary (aluShift s.cfg.shiftOor op) r1 r2 r3 s) (binary (aluShift s'.cfg.shiftOor op) r1 r2 r3 s') := by
  rw [h.shiftOor]
  exact binary_alike h

theorem exec_alike (h : SameStore s s') (i : Instr) :
    ∃ e e', exec i s = complete i.opcode s e ∧ exec i s' = complete i.opcode s' e' ∧ Alike e e' := by
  cases i with
  | nop => exact ⟨_, _, rfl, rfl, .commit h⟩
  | halt => exact ⟨_, _, rfl, rfl, .halt⟩
  | jmp a | b a => exact ⟨_, _, rfl, rfl, .redirect a⟩
  | add | sub | mul | and | or | xor | cmp | test => exact ⟨_, _, rfl, rfl, binary_alike h⟩
  | shl | shr => exact ⟨_, _, rfl, rfl, shift_alike h⟩
  | div | mod => exact ⟨_, _, rfl, rfl, division_alike h⟩
  | neg | abs | not => exact ⟨_, _, rfl, rfl, unary_alike h⟩
  | inc | dec => exact ⟨_, _, rfl, rfl, inPlace_alike h⟩
  | jz | bz | jnz | bnz => exact ⟨_, _, rfl, rfl, branchIf_alike h⟩
  | je | jne => exact ⟨_, _, rfl, rfl, branchIf2_alike h⟩
  | li => exact ⟨_, _, rfl, rfl, regWrite_alike h⟩
  | mov => exact ⟨_, _, rfl, rfl, regRead_alike h fun _ => regWrite_alike h⟩
  | load => exact ⟨_, _, rfl, rfl, memRead_alike h fun _ => regWrite_alike h⟩
  | store => exact ⟨_, _, rfl, rfl, regRead_alike h fun _ => memWrite_alike h⟩
  | push => exact ⟨_, _, rfl, rfl, regRead_alike h fun _ => pushWord_alike h⟩
  | pop => exact ⟨_, _, rfl, rfl, popWord_alike h fun _ _ _ ht => regWrite_alike ht⟩

/-- Alike evaluations complete to states with one store. -/
theorem Alike.complete_next {op : Opcode} {e e' : Evaluation} (he : Alike e e') (h : SameStore s s') {t : State}
    (ht : complete op s e = .next t) : ∃ t', complete op s' e' = .next t' ∧ t'.regs = t.regs ∧ t'.mem = t.mem ∧ t'.sp = t.sp := by
  cases he with
  | raise | halt | redirect => cases ht; exact ⟨_, rfl, h.regs, h.mem, h.sp⟩
  | commit hu => cases ht; exact ⟨_, rfl, hu.regs, hu.mem, hu.sp⟩
  | stuck r => cases ht

/-- Settles O36: the two runs evaluate alike (`exec_alike`). -/
theorem effectsDependOnTheStateStoreAlone : Obligations.EffectsDependOnTheStateStoreAlone := by
  intro i s s' t hregs hmem hsp hsize hshift ht
  have h : SameStore s s' := ⟨hregs, hmem, hsp, hsize, hshift⟩
  obtain ⟨e, e', he, he', halike⟩ := exec_alike h i
  rw [he] at ht
  rw [he']
  exact halike.complete_next h ht

end Sys2Proof.Machine
end

section
/-! PROOFS about the step (`45_execution_engine.md` R190 to R193, `60_exceptions.md` R210 to R218, `00_scope.md` R7). `Steps` lists what one step can
do; the statements about the end of a run, about faults and counters, and the invariant are read off from it. -/

namespace Sys2Proof.Machine

open Sys2Proof.Claims

variable {s t u : State} {i : Instr} {w : InstrWord}

/-! ### Refusals (R7, R88) -/

theorem complete_ne_refused (op : Opcode) (s : State) (e : Evaluation) (r : Refusal) : complete op s e ≠ .refused r := by
  cases e <;> exact nofun

theorem exec_ne_refused (i : Instr) (s : State) (r : Refusal) : exec i s ≠ .refused r := by
  obtain ⟨e, he, _⟩ := exec_checked i s
  rw [he]
  exact complete_ne_refused _ s e r

/-- A Running machine is refused exactly before it runs: no instruction refuses. -/
theorem step_refused_iff (hr : s.runState = .running) : (∃ r, step s = .refused r) ↔ bootRefusal s ≠ none := by
  cases hb : bootRefusal s with
  | some r => exact iff_of_true ⟨r, by simp [step, hr, hb]⟩ nofun
  | none =>
    refine iff_of_false (fun ⟨r, h⟩ => ?_) (by simp)
    rw [step_of_running hr hb] at h
    rcases runningStep_cases hb with ⟨_, e⟩ | ⟨_, _, e⟩ | ⟨_, i, _, _, _, e⟩ <;> rw [e] at h
    · cases h
    · cases h
    · exact exec_ne_refused i s r h

theorem not_capacityLegal_iff (n : Nat) : ¬ capacityLegal n = true ↔ n = 0 ∨ 4294967296 < n := by
  rw [capacityLegal_iff]
  omega

theorem not_budgetLegal_iff (b : U64) : ¬ budgetLegal b = true ↔ b = 0 := by
  rw [budgetLegal_iff, BitVec.toNat_eq (y := 0)]
  change ¬ 1 ≤ b.toNat ↔ b.toNat = 0
  omega

theorem not_programLengthLegal_iff (p : List InstrWord) : ¬ programLengthLegal p = true ↔ 4294967295 < p.length := by
  rw [programLengthLegal_iff, Nat.not_le]

theorem not_wordLegal_iff (w : InstrWord) : ¬ wordLegal w = true ↔ 33 ≤ (InstrWord.opcode w).toNat := by
  rw [wordLegal_iff, exists_decode_eq_ok_iff]
  omega

theorem not_programWordsLegal_iff (p : List InstrWord) :
    ¬ programWordsLegal p = true ↔ ∃ w ∈ p, 33 ≤ (InstrWord.opcode w).toNat := by
  simp only [programWordsLegal, List.all_eq_true, not_forall, not_wordLegal_iff, exists_prop]

/-- A machine is refused exactly if one of its parameters is illegal (R7). -/
theorem bootRefusal_ne_none_iff (s : State) :
    bootRefusal s ≠ none ↔ s.regs.length = 0 ∨ 4294967296 < s.regs.length ∨ s.cfg.memorySize = 0 ∨ 4294967296 < s.cfg.memorySize ∨
      s.cfg.budget = 0 ∨ 4294967295 < s.cfg.program.length ∨ ∃ w ∈ s.cfg.program, 33 ≤ (InstrWord.opcode w).toNat := by
  simp only [ne_eq, bootRefusal_eq_none, not_and_or, not_capacityLegal_iff, not_budgetLegal_iff, not_programLengthLegal_iff,
    not_programWordsLegal_iff, or_assoc, State.numRegisters]

/-- Settles O43: `bootRefusal_ne_none_iff`, since only the refusal before the run refuses. -/
theorem illegalConfigurationsAreRefused : Obligations.IllegalConfigurationsAreRefused := by
  intro s hr
  rw [step_refused_iff hr]
  exact bootRefusal_ne_none_iff s

/-- Settles O5: a word's tag decides whether it decodes, and an illegal word in the program is a reason to refuse. -/
theorem onlyThirtyThreeTagsAreInstructions : Obligations.OnlyThirtyThreeTagsAreInstructions := by
  refine ⟨exists_decode_eq_ok_iff, fun w => decode_of_33_le, fun s w hr hw htag => ?_⟩
  rw [step_refused_iff hr, bootRefusal_ne_none_iff]
  iterate 6 right
  exact ⟨w, hw, htag⟩

/-! ### The three things a step does (R191, R192) -/

theorem step_of_budget_spent (hr : s.runState = .running) (hb : bootRefusal s = none) (h : s.cfg.budget.toNat ≤ s.executedCount.toNat) :
    step s = .next (s.takeFault none (.budgetExceeded s.executedCount)) := by
  rw [step_of_running hr hb]
  rcases runningStep_cases hb with ⟨_, e⟩ | ⟨_, _, _⟩ | ⟨_, _, _, _⟩
  · exact e
  · omega
  · omega

theorem step_of_program_end (hr : s.runState = .running) (hb : bootRefusal s = none) (h : s.executedCount.toNat < s.cfg.budget.toNat)
    (hp : s.cfg.program.length ≤ s.pc.toNat) : step s = .next s.halt := by
  rw [step_of_running hr hb]
  rcases runningStep_cases hb with ⟨_, _⟩ | ⟨_, _, e⟩ | ⟨w, _, _, hw, _⟩
  · omega
  · exact e
  · simp [List.getElem?_eq_none hp] at hw

theorem step_of_fetch (hr : s.runState = .running) (hb : bootRefusal s = none) (h : s.executedCount.toNat < s.cfg.budget.toNat)
    (hw : s.cfg.program[s.pc.toNat]? = some w) (hd : decode w = .ok i) : step s = exec i s := by
  rw [step_of_running hr hb]
  rcases runningStep_cases hb with ⟨_, _⟩ | ⟨_, hp, _⟩ | ⟨w', i', _, hw', hd', e⟩
  · omega
  · simp [List.getElem?_eq_none hp] at hw
  · cases hw.symm.trans hw'
    cases hd.symm.trans hd'
    exact e

/-- Settles O37: with budget left and a word at `pc`, the step is the fetched instruction (`step_of_fetch`). -/
theorem stepRunsTheDecodedInstruction : Obligations.StepRunsTheDecodedInstruction :=
  fun _ _ _ hr hb h hw hd => step_of_fetch hr hb h hw hd

/-- Settles O39: with budget left and no word at `pc`, the step is `State.halt` (`step_of_program_end`). -/
theorem endOfProgramHalts : Obligations.EndOfProgramHalts := fun _ hr hb h hp => step_of_program_end hr hb h hp

/-- Settles O26: a HALT is run where budget is left, and not reached where none is. -/
theorem haltEndsTheRunInPlace : Obligations.HaltEndsTheRunInPlace := by
  refine ⟨spelledBy_instr .halt, fun _ => rfl, fun s w hr hb hw hd h => ?_, fun s w hr hb hw hd h => ?_, fun s ⟨t, ht⟩ => ?_⟩
  · rw [step_of_fetch hr hb h hw hd]
    rfl
  · exact ⟨_, step_of_budget_spent hr hb (by rw [h]), rfl, rfl⟩
  · obtain ⟨hr, _⟩ := step_next ht
    cases hr

/-! ### What one step can do, with the instruction that does it -/

/-- The next states of a step from `s`: Faulted, Halted at the end of the program or by a HALT, or one more instruction completed. -/
inductive Steps (s : State) : State → Prop where
  | faults (op : Option Opcode) (d : FaultDetail) : Steps s (s.takeFault op d)
  | ends (hp : s.cfg.program.length ≤ s.pc.toNat) : Steps s s.halt
  | halts (w : InstrWord) (hw : s.cfg.program[s.pc.toNat]? = some w) (hd : decode w = .ok .halt) : Steps s s.halt
  | jumps (w : InstrWord) (i : Instr) (a : U32) (hb : s.executedCount.toNat < s.cfg.budget.toNat) (hw : s.cfg.program[s.pc.toNat]? = some w)
      (hd : decode w = .ok i) (ht : jumpTarget i = some a) (hj : jumpTaken s i) : Steps s (s.redirect a)
  | commits (w : InstrWord) (i : Instr) (u : State) (hb : s.executedCount.toNat < s.cfg.budget.toNat)
      (hw : s.cfg.program[s.pc.toNat]? = some w) (hu : Writes i s u) : Steps s u.advance

theorem step_steps (h : step s = .next t) : Steps s t := by
  rcases step_next_cases h with ⟨_, rfl⟩ | ⟨_, hp, rfl⟩ | ⟨w, i, hb, hw, hd, he⟩
  · exact .faults _ _
  · exact .ends hp
  · rcases exec_next_cases he with ⟨d, _, rfl⟩ | ⟨_, rfl, rfl⟩ | ⟨_, a, ht, hj, rfl⟩ | ⟨_, _, _, u, hu, rfl⟩
    · exact .faults _ _
    · exact .halts w hw hd
    · exact .jumps w i a hb hw hd ht hj
    · exact .commits w i u hb hw hu

theorem Writes.pc_eq (h : Writes i s u) : u.pc = s.pc := by
  cases h <;> rfl

theorem Writes.executedCount_eq (h : Writes i s u) : u.executedCount = s.executedCount := by
  cases h <;> rfl

/-- There is no step out of an ended run (R190). -/
theorem not_step_of_ended (h : s.Ended) : ¬ ∃ t, step s = .next t := fun ⟨_, ht⟩ => h (step_next ht).1

/-- A Running state of the hardware has no fault record (R32). -/
theorem fault_eq_none_of_running (hs : s.Inv) (hr : s.runState = .running) : s.fault = none := by
  simpa [hr] using hs.faultIffFaulted

/-- Settles O44: of what a step can do, completing an instruction leaves the machine Running. -/
theorem threeWaysToEndARun : Obligations.ThreeWaysToEndARun := by
  refine ⟨fun s t h hne => ?_, fun s => not_step_of_ended⟩
  obtain ⟨hr, _⟩ := step_next h
  cases step_steps h with
  | faults op d => exact .inr (.inr ⟨rfl, _, rfl, rfl⟩)
  | ends hp => exact .inr (.inl ⟨rfl, hp⟩)
  | halts w hw hd => exact .inl ⟨rfl, w, hw, hd⟩
  | jumps => exact absurd hr hne
  | commits w i u _ _ hu => exact absurd (hu.runState_eq.trans hr) hne

/-- Settles O45: of what a step can do, only taking a fault ends Faulted. -/
theorem faultingStepsHaveNoOtherEffect : Obligations.FaultingStepsHaveNoOtherEffect := by
  intro s t h hf
  obtain ⟨hr, _⟩ := step_next h
  cases step_steps h with
  | faults op d => exact ⟨rfl, rfl, rfl, rfl, rfl, rfl, _, rfl, rfl⟩
  | ends | halts => cases hf
  | jumps => cases hr.symm.trans hf
  | commits w i u _ _ hu => cases (hu.runState_eq.trans hr).symm.trans hf

/-- Settles O42: a step starts in Running, where no record is written. -/
theorem faultedIsTerminal : Obligations.FaultedIsTerminal := by
  refine ⟨fun s hr => by simp [step, hr], fun s t hs h => ?_, fun _ _ => rfl⟩
  obtain ⟨hr, _⟩ := step_next h
  exact fault_eq_none_of_running hs hr

/-! ### The counters (R27, R30) -/

/-- The count has room for one more where budget is left. -/
theorem toNat_executedCount_add_one (h : s.executedCount.toNat < s.cfg.budget.toNat) : (s.executedCount + 1).toNat = s.executedCount.toNat + 1 :=
  toNat_add_one (by have := s.cfg.budget.isLt; omega)

/-- `pc` has room for one more where a word is fetched: a legal program is shorter than 2^32. -/
theorem toNat_pc_add_one (hs : s.Inv) (hw : s.cfg.program[s.pc.toNat]? = some w) : (s.pc + 1).toNat = s.pc.toNat + 1 := by
  obtain ⟨_, _, _, hlen, _⟩ := bootRefusal_eq_none.1 hs.boots
  have hle := (programLengthLegal_iff _).1 hlen
  obtain ⟨hlt, _⟩ := List.getElem?_eq_some_iff.1 hw
  exact toNat_add_one (by omega)

/-- Settles O47: the completed instruction counts one and moves `pc` by one or to its target. -/
theorem countersNeverWrap : Obligations.CountersNeverWrap := by
  intro s t hs h ht
  cases step_steps h with
  | faults | ends | halts => cases ht
  | jumps w i a hb hw hd hta hj => exact ⟨toNat_executedCount_add_one hb, .inr ⟨w, i, hw, hd, hj, hta⟩⟩
  | commits w i u hb hw hu =>
    rw [State.advance_executedCount, State.advance_pc, hu.executedCount_eq, hu.pc_eq]
    exact ⟨toNat_executedCount_add_one hb, .inl (toNat_pc_add_one hs hw)⟩

/-- The fault record after an instruction: the one before, or a new one that is not of the budget. -/
theorem Answers.fault_cases {op : Opcode} (h : Answers op s t) :
    t.fault = s.fault ∨ ∃ r, t.fault = some r ∧ r.cause ≠ .budgetExceeded := by
  cases h with
  | faults d hd => exact .inr ⟨_, rfl, hd⟩
  | halts | jumps | fallsThrough | writesReg | stores | pushes | pops => exact .inl rfl

/-- A step that ends with BudgetExceeded found the budget spent. -/
theorem budget_le_of_budgetExceeded {r : FaultRecord} (hs : s.Inv) (hr : s.runState = .running) (h : step s = .next t) (hf : t.fault = some r)
    (hc : r.cause = .budgetExceeded) : s.cfg.budget.toNat ≤ s.executedCount.toNat := by
  have hnone := fault_eq_none_of_running hs hr
  rcases step_next_cases h with ⟨hb, _⟩ | ⟨_, _, rfl⟩ | ⟨_, i, _, _, _, he⟩
  · exact hb
  · cases hnone.symm.trans hf
  · rcases (exec_answers he).fault_cases with hk | ⟨r', hr', hne⟩
    · cases hnone.symm.trans (hk.symm.trans hf)
    · cases hf.symm.trans hr'
      exact absurd hc hne

/-- Settles O38: the first check of the step raises it, and no instruction does. -/
theorem budgetExceededIsRaisedByTheStep : Obligations.BudgetExceededIsRaisedByTheStep := by
  refine ⟨fun s => step_of_budget_spent, fun s hs hr => ⟨fun ⟨t, r, h, hf, hc⟩ => ?_, fun he => ?_⟩, fun s t hs h => ?_⟩
  · exact BitVec.eq_of_toNat_eq (le_antisymm hs.countWithinBudget (budget_le_of_budgetExceeded hs hr h hf hc))
  · exact ⟨_, _, step_of_budget_spent hr hs.boots (by rw [he]), rfl, rfl⟩
  · cases step_steps h with
    | faults | ends | halts => exact .inl rfl
    | jumps w i a hb => exact .inr (toNat_executedCount_add_one hb)
    | commits w i u hb _ hu =>
      rw [State.advance_executedCount, hu.executedCount_eq]
      exact .inr (toNat_executedCount_add_one hb)

/-! ### The invariant -/

theorem boots_congr (hs : s.Inv) (hc : t.cfg = s.cfg) (hr : t.regs.length = s.regs.length) : bootRefusal t = none :=
  (bootRefusal_congr hc hr).trans hs.boots

theorem inv_takeFault (hs : s.Inv) (op : Option Opcode) (d : FaultDetail) : (s.takeFault op d).Inv where
  boots := boots_congr hs rfl rfl
  memWf := hs.memWf
  memBelow := hs.memBelow
  spInMemory := hs.spInMemory
  countWithinBudget := hs.countWithinBudget
  faultIffFaulted := iff_of_true rfl rfl

theorem inv_halt (hs : s.Inv) (hr : s.runState = .running) : s.halt.Inv where
  boots := boots_congr hs rfl rfl
  memWf := hs.memWf
  memBelow := hs.memBelow
  spInMemory := hs.spInMemory
  countWithinBudget := hs.countWithinBudget
  faultIffFaulted := by simp [fault_eq_none_of_running hs hr]

/-- Counting one more instruction, wherever `pc` goes, keeps the invariant where budget is left. -/
theorem inv_redirect (hs : s.Inv) (hb : s.executedCount.toNat < s.cfg.budget.toNat) (a : U32) : (s.redirect a).Inv where
  boots := boots_congr hs rfl rfl
  memWf := hs.memWf
  memBelow := hs.memBelow
  spInMemory := hs.spInMemory
  countWithinBudget := (toNat_executedCount_add_one hb).trans_le hb
  faultIffFaulted := hs.faultIffFaulted

theorem inv_advance (hs : s.Inv) (hb : s.executedCount.toNat < s.cfg.budget.toNat) : s.advance.Inv := inv_redirect hs hb (s.pc + 1)

theorem inv_setReg (hs : s.Inv) (r : U32) (v : S32) : (s.setReg r v).Inv :=
  { hs with boots := boots_congr hs rfl List.length_set }

theorem inv_setMem (hs : s.Inv) {a : U32} (ha : a.toNat < s.cfg.memorySize) (v : S32) : (s.setMem a v).Inv :=
  { hs with
    boots := boots_congr hs rfl rfl
    memWf := Memory.wf_write _ v hs.memWf
    memBelow := Memory.below_write ha v _ hs.memBelow }

theorem inv_setSp (hs : s.Inv) {p : U32} (hp : p.toNat < s.cfg.memorySize) : (s.setSp p).Inv :=
  { hs with
    boots := boots_congr hs rfl rfl
    spInMemory := hp }

/-- The writes of an instruction keep the invariant. -/
theorem Writes.inv (h : Writes i s u) (hs : s.Inv) : u.Inv := by
  have hsp := hs.spInMemory
  cases h with
  | nothing => exact hs
  | register r v => exact inv_setReg hs r v
  | word a v _ ha => exact inv_setMem hs ha v
  | pushed r v _ h0 =>
    have hlt : (s.sp - 1).toNat < s.cfg.memorySize := by bv_omega
    exact inv_setSp (inv_setMem hs hsp v) hlt
  | popped r v _ hlt =>
    have hlt' : (s.sp + 1).toNat < s.cfg.memorySize := (toNat_sp_add_one hs hlt).trans_lt hlt
    exact inv_setReg (inv_setSp hs hlt') r v

theorem step_inv (hs : s.Inv) (h : step s = .next t) : t.Inv := by
  obtain ⟨hr, _⟩ := step_next h
  cases step_steps h with
  | faults op d => exact inv_takeFault hs op d
  | ends | halts => exact inv_halt hs hr
  | jumps w i a hb => exact inv_redirect hs hb a
  | commits w i u hb _ hu =>
    obtain ⟨x, m, p, rfl⟩ := hu.exists_eq
    exact inv_advance (hu.inv hs) hb

/-- Settles O50: `step_inv`, case by case over what a step can do. -/
theorem everyStepKeepsTheInvariant : Obligations.EveryStepKeepsTheInvariant := fun _ _ => step_inv

end Sys2Proof.Machine
end

section
/-! PROOFS about construction, a run and the host's reads (`70_reset_and_hazards.md` section 1, `45_execution_engine.md` R194 to R198). -/

namespace Sys2Proof.Machine

open Sys2Proof.Claims

variable {s t : State} {m : Memory} {a b n : Nat}

/-! ### Construction -/

/-- The stack pointer of a construction is the highest address. -/
theorem toNat_construct_sp (k : Nat) {c : Config} (hlo : 1 ≤ c.memorySize) (hhi : c.memorySize ≤ 4294967296) :
    (State.construct k c).sp.toNat = c.memorySize - 1 := by
  rw [State.construct_sp, BitVec.toNat_ofNat]
  exact Nat.mod_eq_of_lt (by omega)

/-- Settles O48: the fields of `State.construct`; the 32-bit `sp` has room for the highest address (`toNat_construct_sp`). -/
theorem constructionGivesTheResetState : Obligations.ConstructionGivesTheResetState := by
  intro k c _ _ hlo hhi
  refine ⟨rfl, List.length_replicate, fun j hj => ?_, fun _ _ => rfl, toNat_construct_sp k hlo hhi, rfl, rfl, rfl, rfl⟩
  rw [State.construct_regs, List.getElem?_replicate_of_lt hj]

theorem construct_inv {k : Nat} {c : Config} (h : bootRefusal (State.construct k c) = none) : (State.construct k c).Inv where
  boots := h
  memWf := rfl
  memBelow := rfl
  spInMemory := by
    obtain ⟨_, hm, _⟩ := bootRefusal_eq_none.1 h
    obtain ⟨hlo, hhi⟩ := (capacityLegal_iff _).1 hm
    exact (toNat_construct_sp (c := c) k hlo hhi).trans_lt (Nat.sub_one_lt_of_lt hlo)
  countWithinBudget := Nat.zero_le _
  faultIffFaulted := ⟨nofun, nofun⟩

/-- Settles O49: `construct_inv`, with the legality of the configuration of `State.reset` evaluated. -/
theorem constructionMeetsTheInvariant : Obligations.ConstructionMeetsTheInvariant :=
  ⟨fun _ _ => construct_inv, construct_inv (by decide)⟩

/-! ### The run (R194) -/

theorem run_of_ended (n : Nat) (h : s.Ended) : run n s = .next s := by
  cases n with
  | zero => rfl
  | succ n =>
    unfold run
    split
    · rename_i hr
      exact absurd hr h
    · rfl

theorem run_succ_of_step (hr : s.runState = .running) (h : step s = .next t) : run (n + 1) s = run n t := by
  simp [run, hr, h]

/-- A run from a Running state of the hardware ends, given more steps than budget is left: each step ends it or counts one. -/
theorem run_ends (hs : s.Inv) (hr : s.runState = .running) (hn : s.cfg.budget.toNat - s.executedCount.toNat < n) :
    ∃ t, run n s = .next t ∧ t.Ended ∧ t.Inv ∧ t.cfg = s.cfg := by
  induction n generalizing s with
  | zero => omega
  | succ n ih =>
    obtain ⟨t, h⟩ := step_exists_next hs hr
    have hinv : t.Inv := step_inv hs h
    have hcfg : t.cfg = s.cfg := step_cfg_eq h
    rw [run_succ_of_step hr h]
    by_cases ht : t.runState = .running
    · obtain ⟨hcount, _⟩ := countersNeverWrap s t hs h ht
      have hle : t.executedCount.toNat ≤ s.cfg.budget.toNat := hcfg ▸ hinv.countWithinBudget
      obtain ⟨v, hv, hend, hv', hcfg'⟩ := ih hinv ht (by rw [hcfg]; omega)
      exact ⟨v, hv, hend, hv', hcfg'.trans hcfg⟩
    · exact ⟨t, run_of_ended n ht, ht, hinv, hcfg⟩

/-- Settles O51: `run_ends`, from any Running state and from construction. -/
theorem everyRunEndsWithinTheBudget : Obligations.EveryRunEndsWithinTheBudget := by
  refine ⟨fun s hs hr => ?_, fun k c hb => ?_⟩
  · obtain ⟨t, h, hend, hinv, _⟩ := run_ends hs hr (Nat.lt_succ_self _)
    exact ⟨t, h, hend, hinv⟩
  · obtain ⟨t, h, hend, hinv, hcfg⟩ := run_ends (n := c.budget.toNat + 1) (construct_inv hb) rfl (Nat.lt_succ_of_le (Nat.sub_le _ _))
    have hle := hinv.countWithinBudget
    rw [hcfg] at hle
    exact ⟨t, h, hend, hle⟩

/-! ### The live stack (R69, R198) -/

/-- The `n` words of memory from address `a` on. -/
def wordsFrom (m : Memory) (a n : Nat) : List S32 := (List.range n).map fun k => Memory.read (a + k) m

theorem liveStack_eq_wordsFrom (s : State) : liveStack s = wordsFrom s.mem (s.sp.toNat + 1) (s.cfg.memorySize - 1 - s.sp.toNat) := rfl

@[simp] theorem length_wordsFrom : (wordsFrom m a n).length = n := by
  simp [wordsFrom]

theorem getElem?_wordsFrom {k : Nat} (h : k < n) : (wordsFrom m a n)[k]? = some (Memory.read (a + k) m) := by
  simp [wordsFrom, h]

theorem wordsFrom_succ : wordsFrom m a (n + 1) = Memory.read a m :: wordsFrom m (a + 1) n := by
  simp [wordsFrom, List.range_succ_eq_map, Nat.add_assoc, Nat.add_comm 1]

/-- A write below the words leaves them alone. -/
theorem wordsFrom_write (h : b < a) (v : S32) : wordsFrom (Memory.write b v m) a n = wordsFrom m a n :=
  List.map_congr_left fun k _ => Memory.read_write_other (by omega) v m

/-- Settles O52: PUSH and POP move the lower end of the listed words by one. -/
theorem snapshotListsTheLiveStack : Obligations.SnapshotListsTheLiveStack := by
  refine ⟨fun s hr => ⟨liveStack s, by simp [snapshot?, hr], length_wordsFrom, fun k hk => getElem?_wordsFrom (by omega)⟩,
    fun s hr => ?_, fun s t r v hs hr h0 h => ?_, fun s t r hs hr hsp h => ?_⟩
  · unfold snapshot?
    split
    · rename_i hh
      exact absurd hh hr
    · rfl
  · cases (exec_push hr h0 hs.spInMemory).symm.trans h
    change wordsFrom (Memory.write s.sp.toNat v s.mem) ((s.sp - 1).toNat + 1) (s.cfg.memorySize - 1 - (s.sp - 1).toNat) = _
    have hlt := hs.spInMemory
    have hpos : (s.sp - 1).toNat + 1 = s.sp.toNat := by
      rw [toNat_sub_one h0]
      omega
    have hlen : s.cfg.memorySize - 1 - (s.sp - 1).toNat = s.cfg.memorySize - 1 - s.sp.toNat + 1 := by omega
    rw [hpos, hlen, wordsFrom_succ, Memory.read_write_same _ _ _ hs.memWf, wordsFrom_write (Nat.lt_succ_self _), liveStack_eq_wordsFrom]
  · cases (exec_pop hsp hr).symm.trans h
    change _ = _ :: wordsFrom s.mem ((s.sp + 1).toNat + 1) (s.cfg.memorySize - 1 - (s.sp + 1).toNat)
    have hlen : s.cfg.memorySize - 1 - s.sp.toNat = s.cfg.memorySize - 1 - (s.sp.toNat + 1) + 1 := by omega
    rw [liveStack_eq_wordsFrom, toNat_sp_add_one hs hsp, hlen, wordsFrom_succ]

end Sys2Proof.Machine
end
